-- ==== Sys2Proof/Word.lean ====
section
/-! DEFINITION. The word types of the core (00_scope.md R6, R8): every register and memory cell is 8 bits, the
pre-truncation result of an operation is 16 bits. -/

namespace Sys2Proof

/-- An 8-bit value: a register, a memory cell, an opcode, an immediate (R6 DATA_WIDTH, ADDR_WIDTH). -/
abbrev Byte := BitVec 8

/-- The 16-bit pre-truncation result `t` of an operation (00_scope.md R11, 40_engine_cycle.md R128). -/
abbrev Wide := BitVec 16

end Sys2Proof
end

