-- ==== Sys2Proof/Config.lean ====
section
/-! DEFINITION. The parameters of 00_scope.md R6 and their defaults. The parameters that are fixed for one run are a
record `Params`, which State carries; BOOT_IMAGE and FILL_BYTE fix the reset content of memory. -/

namespace Sys2Proof

/-- HALT_BEHAVIOR (R6, D36): what HLT does while the Trap flag is clear. -/
inductive HaltBehavior where
  /-- HLT waits for the Trap flag. -/
  | spin
  /-- HLT ends the run. -/
  | terminate
deriving DecidableEq, Repr

/-- A cell in which an OPCODE_MAP differs from the table of 30_encoding.md R104. -/
structure MapCell where
  /-- The opcode. -/
  opcode : Byte
  /-- The opcode at which R104 has the instruction this map has at `opcode`; `none` where this map has no instruction. -/
  sameAs : Option Byte
deriving DecidableEq, Repr

/-- OPCODE_MAP (R6): the assignment of opcodes to instructions, as the cells that differ from R104 (log 2). Which lists are
maps is `legalMap`. -/
abbrev OpcodeMap := List MapCell

/-- OPCODE_MAP's default, the table of R104. -/
def defaultOpcodeMap : OpcodeMap := []

/-- The parameters of R6 that are fixed for a run (60_exceptions.md R397). -/
structure Params where
  /-- The highest address of memory: MEM_SIZE - 1, so that exactly the sizes 1 to 256 of R6 and D1 can be said. -/
  topAddr : Byte
  /-- OPCODE_MAP. -/
  opcodeMap : OpcodeMap
  /-- HALT_BEHAVIOR. -/
  haltBehavior : HaltBehavior
  /-- TRACING_ENABLED: no effect on any state (R6, D32). -/
  tracingEnabled : Bool
  /-- CYCLE_FREQUENCY_HZ: no effect on any state (R6, D32). -/
  cycleFrequencyHz : Nat
deriving DecidableEq, Repr

/-- MEM_SIZE, the number of cells of memory: 1 to 256 (R6, 20_memory.md R60). -/
def memSize (p : Params) : Nat := p.topAddr.toNat + 1

/-- The parameters of `State.reset`. MEM_SIZE = 256 and the map of R104 are R6's defaults. DESIGN CHOICE (log 3, log 4), unsafe where a claim is
about `State.reset` alone: `spin`, tracing off and frequency 0 are the model's, for R6 gives these three no default. -/
def defaultParams : Params where
  topAddr := 0xff#8
  opcodeMap := defaultOpcodeMap
  haltBehavior := .spin
  tracingEnabled := false
  cycleFrequencyHz := 0

/-- FILL_BYTE (R6): the reset content of every cell outside BOOT_IMAGE. -/
def fillByte : Byte := 0xff#8

/-- BOOT_IMAGE's default (R6, 70_reset_and_hazards.md R412): the bootstrap program of the source. -/
def bootImage : List Byte := [0x00#8, 0xaa#8, 0x08#8, 0xd0#8, 0xe4#8, 0xe8#8]

end Sys2Proof
end

