-- ==== Sys2Proof/Machine/State.lean ====
section
/-! DEFINITION. The state of the machine (10_state.md), the reasons a step can end without a next state, and the state
after reset. -/

namespace Sys2Proof.Machine

/-- The kinds of fatal fault (60_exceptions.md R381). -/
inductive FaultKind where
  /-- An address at or above MEM_SIZE (R383). -/
  | memoryFault
  /-- A division by zero (R384). -/
  | arithmeticFault
deriving DecidableEq, Repr

/-- The fault record of R386. -/
structure FaultRecord where
  kind : FaultKind
  /-- The opcode of the faulting instruction, absent when byte 0 could not be read (R383, 40_engine_cycle.md R123). -/
  opcode : Option Byte
  /-- The address of the faulting instruction. -/
  pc : Byte
  /-- The faulting address (a memory fault; up to 0x100) or the divisor (an arithmetic fault). -/
  addrOrOperand : Nat
deriving DecidableEq, Repr

/-- The run state of 10_state.md R38. -/
inductive RunState where
  /-- Cycles execute one instruction each. -/
  | running
  /-- A HLT waits for the Trap flag. -/
  | halted
  /-- HLT ended the run under HALT_BEHAVIOR = terminate. -/
  | stopped
  /-- A fatal fault ended the run. -/
  | faulted (record : FaultRecord)
deriving DecidableEq, Repr

/-- Why the machine has no next state. -/
inductive Fault where
  /-- Raised by `step` in run state Stopped, where the engine has no step (40_engine_cycle.md R140). Safe: it is the
  rule's own stop. -/
  | runStopped
  /-- Raised by `step` in run state Faulted, where the engine has no step (R140), with the record R386 keeps. Safe: it is
  the rule's own stop. -/
  | runFaulted (record : FaultRecord)
deriving DecidableEq, Repr

/-- What the model turns away. -/
inductive Refusal where
  /-- Raised by `exec` for an instruction without a meaning. No arm of `exec` raises it. Safe: nothing runs. -/
  | notModelled (mnemonic : String)
  /-- Raised by `construct` for a BOOT_IMAGE that is empty or longer than MEM_SIZE, whose construction the spec refuses
  (92_eei_decisions.md D37, 93_implementation_defined.md U16). Safe: nothing runs. -/
  | badBootImage
  /-- Raised by `construct` for a list that is no OPCODE_MAP: it changes an opcode that every OPCODE_MAP must keep
  (30_encoding.md R94), leaves the family ranges (R93), or is not in canonical form (log 2). Safe: nothing runs. -/
  | badOpcodeMap
deriving DecidableEq, Repr

/-- Memory as the list of the cells that differ from their reset content, by rising address (log 5). An address that is
not listed reads as `resetByte` of it. -/
abbrev Memory := List Host.Cell

/-- The state of the machine between two cycles (10_state.md R30 to R45, and the parameters of 00_scope.md R6). -/
structure State where
  /-- Accumulator X (R30). -/
  x : Byte
  /-- Accumulator Y (R30). -/
  y : Byte
  /-- The IO latch (R31). -/
  io : Byte
  /-- The stack pointer (R32). -/
  sp : Byte
  /-- The program counter (R33). -/
  pc : Byte
  /-- The Flags register: O bit 0, Z bit 1, C bit 2, bits 3 to 6 unused, T bit 7 (R34). -/
  f : Byte
  /-- Memory (20_memory.md R60). -/
  mem : Memory
  /-- The run state (R38). -/
  run : RunState
  /-- The parameters fixed for the run (00_scope.md R6). No step changes them (log 1). -/
  params : Params
deriving DecidableEq, Repr

/-- The machine after construction with every default: registers and F zero, the run state Running (10_state.md R45,
70_reset_and_hazards.md R411, R413), and every memory cell at its reset content (R412), so that none is listed. -/
def State.reset : State where
  x := 0x00#8
  y := 0x00#8
  io := 0x00#8
  sp := 0x00#8
  pc := 0x00#8
  f := 0x00#8
  mem := []
  run := .running
  params := defaultParams

end Sys2Proof.Machine
end

