-- ==== Sys2Proof/Machine/Flags.lean ====
section
/-! DEFINITION. The Flags register: its bits (10_state.md R34), the flag-update policy (40_engine_cycle.md R128) and the
conditional test (R130). -/

namespace Sys2Proof.Machine

/-- The low byte `t[7:0]` of a 16-bit result. -/
def lowByte (t : Wide) : Byte := t.extractLsb' 0 8

/-- The high byte `t[15:8]` of a 16-bit result. -/
def highByte (t : Wide) : Byte := t.extractLsb' 8 8

/-- The flags a program can test (10_state.md R34, 30_encoding.md R99). -/
inductive Flag where
  /-- Overflow. -/
  | o
  /-- Zero. -/
  | z
  /-- Trap. -/
  | t
  /-- Carry. -/
  | c
deriving DecidableEq, Repr

/-- The position of a flag in F: O 0, Z 1, C 2, T 7 (R34). -/
def flagBit : Flag → Nat
  | .o => 0
  | .z => 1
  | .c => 2
  | .t => 7

/-- The value of one flag in a Flags byte. -/
def flagSet (fl : Flag) (f : Byte) : Bool := f.getLsbD (flagBit fl)

/-- A byte with only bit `n` set where `b` holds, and 0 otherwise. -/
def bitIf (b : Bool) (n : Nat) : Byte := if b then 1#8 <<< n else 0#8

/-- `ApplyFlags(t)` (R128): O, Z and C from the 16-bit result, T and bits 3 to 6 as they were. -/
def applyFlags (t : Wide) (f : Byte) : Byte :=
  (f &&& 0xf8#8) ||| bitIf (decide (highByte t ≠ 0#8)) 0 ||| bitIf (decide (lowByte t = 0#8)) 1 ||| bitIf (t.getLsbD 8) 2

/-- The polarity of a condition (30_encoding.md R99): taken if the flag is set, or if it is clear. -/
inductive Polarity where
  | ifSet
  | ifClear
deriving DecidableEq, Repr

/-- `Cond(f, p)` (R130), the literal two-part test: the whole byte is not zero, and the flag has the polarity. -/
def condHolds (fl : Flag) (p : Polarity) (f : Byte) : Bool :=
  decide (f ≠ 0#8) && match p with
    | .ifSet => flagSet fl f
    | .ifClear => !flagSet fl f

/-- F with the Trap flag set and every other bit as it was (60_exceptions.md R391 SetTrap). -/
def withTrap (f : Byte) : Byte := f ||| 0x80#8

end Sys2Proof.Machine
end

