-- ==== Sys2Proof/Machine/Alu.lean ====
section
/-! DEFINITION. The 16-bit pre-truncation results (42_arithmetic.md R170, 43_increment_decrement.md R210,
44_logic_and_clear.md R230, R255, 40_engine_cycle.md R133). Operands are unsigned bytes; each result is computed on
integers and then reduced modulo 2^16 (00_scope.md R8). -/

namespace Sys2Proof.Machine

/-- An exact integer reduced modulo 2^16. -/
def wide (n : Int) : Wide := BitVec.ofInt 16 n

/-- ADD: `t = a + b` (R170). -/
def addWide (a b : Byte) : Wide := wide (a.toNat + b.toNat)

/-- SUB: `t = (a - b) mod 2^16` (R170). -/
def subWide (a b : Byte) : Wide := wide (a.toNat - b.toNat)

/-- MUL: `t = a * b` (R170). -/
def mulWide (a b : Byte) : Wide := wide (a.toNat * b.toNat)

/-- DIV: `t = floor(a / b)`, for a divisor other than 0 (R170). -/
def divWide (a b : Byte) : Wide := BitVec.ofNat 16 (a.toNat / b.toNat)

/-- AND: `t = a & b` (R230). -/
def andWide (a b : Byte) : Wide := (a &&& b).setWidth 16

/-- OR: `t = a | b` (R230). -/
def orWide (a b : Byte) : Wide := (a ||| b).setWidth 16

/-- XOR: `t = a ^ b` (R230). -/
def xorWide (a b : Byte) : Wide := (a ^^^ b).setWidth 16

/-- INC: `t = a + 1` (R210). -/
def incWide (a : Byte) : Wide := wide (a.toNat + 1)

/-- DEC: `t = (a - 1) mod 2^16` (R210). -/
def decWide (a : Byte) : Wide := wide (a.toNat - 1)

/-- CLR: `t = a ^ a` (R255). -/
def clrWide (a : Byte) : Wide := xorWide a a

/-- `RelAdd(v)`: `t = (PC + sext_16(v)) mod 2^16` (R133). -/
def relAdd (pc v : Byte) : Wide := wide (pc.toNat + v.toInt)

end Sys2Proof.Machine
end

