-- ==== Sys2Proof/Syntax.lean ====
section
/-! DEFINITION. The instructions: one constructor for each row of the opcode table (30_encoding.md R104). A constructor
carries the immediate byte exactly where the instruction consumes it (R91). In a name, `Imm` is `#imm`, `AtImm` is `[imm]`,
`AtX` is `[X]` and `AtY` is `[Y]`; the destination comes first (R105). -/

namespace Sys2Proof

/-- The instructions of the Lycoder 8-bit ISA. -/
inductive Instr where
  /-- `LD X, #imm` (R151). -/
  | ldXImm (imm : Byte)
  /-- `LD X, Y` (R152). -/
  | ldXY
  /-- `LD X, [imm]` (R153). -/
  | ldXAtImm (imm : Byte)
  /-- `LD X, [Y]` (R154). -/
  | ldXAtY
  /-- `LD Y, #imm` (R155). -/
  | ldYImm (imm : Byte)
  /-- `LD Y, X` (R156). -/
  | ldYX
  /-- `LD Y, [imm]` (R157). -/
  | ldYAtImm (imm : Byte)
  /-- `LD Y, [X]` (R158). -/
  | ldYAtX
  /-- `LD SP, #imm` (R159). -/
  | ldSPImm (imm : Byte)
  /-- `ST [imm], X` (R160). -/
  | stAtImmX (imm : Byte)
  /-- `ST [imm], Y` (R161). -/
  | stAtImmY (imm : Byte)
  /-- `ST [Y], X` (R162). -/
  | stAtYX
  /-- `ST [X], Y` (R163). -/
  | stAtXY
  /-- `LD X, SP` (R164). -/
  | ldXSP
  /-- `ADD X, #imm` (R172). -/
  | addXImm (imm : Byte)
  /-- `ADD X, Y` (R173). -/
  | addXY
  /-- `ADD X, [imm]` (R174). -/
  | addXAtImm (imm : Byte)
  /-- `ADD X, [Y]` (R175). -/
  | addXAtY
  /-- `ADD Y, #imm` (R176). -/
  | addYImm (imm : Byte)
  /-- `ADD Y, X` (R177). -/
  | addYX
  /-- `ADD Y, [imm]` (R178). -/
  | addYAtImm (imm : Byte)
  /-- `ADD Y, [X]` (R179). -/
  | addYAtX
  /-- `SUB X, #imm` (R180). -/
  | subXImm (imm : Byte)
  /-- `SUB X, Y` (R181). -/
  | subXY
  /-- `SUB X, [imm]` (R182). -/
  | subXAtImm (imm : Byte)
  /-- `SUB X, [Y]` (R183). -/
  | subXAtY
  /-- `SUB Y, #imm` (R184). -/
  | subYImm (imm : Byte)
  /-- `SUB Y, X` (R185). -/
  | subYX
  /-- `SUB Y, [imm]` (R186). -/
  | subYAtImm (imm : Byte)
  /-- `SUB Y, [X]` (R187). -/
  | subYAtX
  /-- `MUL X, #imm` (R188). -/
  | mulXImm (imm : Byte)
  /-- `MUL X, Y` (R189). -/
  | mulXY
  /-- `MUL X, [imm]` (R190). -/
  | mulXAtImm (imm : Byte)
  /-- `MUL X, [Y]` (R191). -/
  | mulXAtY
  /-- `MUL Y, #imm` (R192). -/
  | mulYImm (imm : Byte)
  /-- `MUL Y, X` (R193). -/
  | mulYX
  /-- `MUL Y, [imm]` (R194). -/
  | mulYAtImm (imm : Byte)
  /-- `MUL Y, [X]` (R195). -/
  | mulYAtX
  /-- `DIV X, #imm` (R196). -/
  | divXImm (imm : Byte)
  /-- `DIV X, Y` (R197). -/
  | divXY
  /-- `DIV X, [imm]` (R198). -/
  | divXAtImm (imm : Byte)
  /-- `DIV X, [Y]` (R199). -/
  | divXAtY
  /-- `DIV Y, #imm` (R200). -/
  | divYImm (imm : Byte)
  /-- `DIV Y, X` (R201). -/
  | divYX
  /-- `DIV Y, [imm]` (R202). -/
  | divYAtImm (imm : Byte)
  /-- `DIV Y, [X]` (R203). -/
  | divYAtX
  /-- `INC X` (R211). -/
  | incX
  /-- `INC Y` (R212). -/
  | incY
  /-- `INC [imm]` (R213). -/
  | incAtImm (imm : Byte)
  /-- `INC [X]` (R214). -/
  | incAtX
  /-- `INC [Y]` (R215). -/
  | incAtY
  /-- `DEC X` (R216). -/
  | decX
  /-- `DEC Y` (R217). -/
  | decY
  /-- `DEC [imm]` (R218). -/
  | decAtImm (imm : Byte)
  /-- `DEC [X]` (R219). -/
  | decAtX
  /-- `DEC [Y]` (R220). -/
  | decAtY
  /-- `AND X, #imm` (R231). -/
  | andXImm (imm : Byte)
  /-- `AND X, Y` (R232). -/
  | andXY
  /-- `AND X, [imm]` (R233). -/
  | andXAtImm (imm : Byte)
  /-- `AND X, [Y]` (R234). -/
  | andXAtY
  /-- `AND Y, #imm` (R235). -/
  | andYImm (imm : Byte)
  /-- `AND Y, X` (R236). -/
  | andYX
  /-- `AND Y, [imm]` (R237). -/
  | andYAtImm (imm : Byte)
  /-- `AND Y, [X]` (R238). -/
  | andYAtX
  /-- `OR X, #imm` (R239). -/
  | orXImm (imm : Byte)
  /-- `OR X, Y` (R240). -/
  | orXY
  /-- `OR X, [imm]` (R241). -/
  | orXAtImm (imm : Byte)
  /-- `OR X, [Y]` (R242). -/
  | orXAtY
  /-- `OR Y, #imm` (R243). -/
  | orYImm (imm : Byte)
  /-- `OR Y, X` (R244). -/
  | orYX
  /-- `OR Y, [imm]` (R245). -/
  | orYAtImm (imm : Byte)
  /-- `OR Y, [X]` (R246). -/
  | orYAtX
  /-- `XOR X, #imm` (R247). -/
  | xorXImm (imm : Byte)
  /-- `XOR X, Y` (R248). -/
  | xorXY
  /-- `XOR X, [imm]` (R249). -/
  | xorXAtImm (imm : Byte)
  /-- `XOR X, [Y]` (R250). -/
  | xorXAtY
  /-- `XOR Y, #imm` (R251). -/
  | xorYImm (imm : Byte)
  /-- `XOR Y, X` (R252). -/
  | xorYX
  /-- `XOR Y, [imm]` (R253). -/
  | xorYAtImm (imm : Byte)
  /-- `XOR Y, [X]` (R254). -/
  | xorYAtX
  /-- `CLR X` (R256). -/
  | clrX
  /-- `CLR Y` (R257). -/
  | clrY
  /-- `CLR [imm]` (R258). -/
  | clrAtImm (imm : Byte)
  /-- `CLR [X]` (R259). -/
  | clrAtX
  /-- `CLR [Y]` (R260). -/
  | clrAtY
  /-- `CALL #imm` (R271). -/
  | callImm (imm : Byte)
  /-- `CALL X` (R272). -/
  | callX
  /-- `CALL Y` (R273). -/
  | callY
  /-- `RET` (R274). -/
  | ret
  /-- `JMP #imm` (R281). -/
  | jmpImm (imm : Byte)
  /-- `JMP X` (R282). -/
  | jmpX
  /-- `JMP Y` (R283). -/
  | jmpY
  /-- `JO #imm` (R284). -/
  | joImm (imm : Byte)
  /-- `JO X` (R285). -/
  | joX
  /-- `JO Y` (R286). -/
  | joY
  /-- `JNO #imm` (R287). -/
  | jnoImm (imm : Byte)
  /-- `JNO X` (R288). -/
  | jnoX
  /-- `JNO Y` (R289). -/
  | jnoY
  /-- `JZ #imm` (R290). -/
  | jzImm (imm : Byte)
  /-- `JZ X` (R291). -/
  | jzX
  /-- `JZ Y` (R292). -/
  | jzY
  /-- `JNZ #imm` (R293). -/
  | jnzImm (imm : Byte)
  /-- `JNZ X` (R294). -/
  | jnzX
  /-- `JNZ Y` (R295). -/
  | jnzY
  /-- `JT #imm` (R296). -/
  | jtImm (imm : Byte)
  /-- `JT X` (R297). -/
  | jtX
  /-- `JT Y` (R298). -/
  | jtY
  /-- `JNT #imm` (R299). -/
  | jntImm (imm : Byte)
  /-- `JNT X` (R300). -/
  | jntX
  /-- `JNT Y` (R301). -/
  | jntY
  /-- `JC #imm` (R302). -/
  | jcImm (imm : Byte)
  /-- `JC X` (R303). -/
  | jcX
  /-- `JC Y` (R304). -/
  | jcY
  /-- `JNC #imm` (R305). -/
  | jncImm (imm : Byte)
  /-- `JNC X` (R306). -/
  | jncX
  /-- `JNC Y` (R307). -/
  | jncY
  /-- `BR #imm` (R311). -/
  | brImm (imm : Byte)
  /-- `BR X` (R312). -/
  | brX
  /-- `BR Y` (R313). -/
  | brY
  /-- `BO #imm` (R314). -/
  | boImm (imm : Byte)
  /-- `BO X` (R315). -/
  | boX
  /-- `BO Y` (R316). -/
  | boY
  /-- `BNO #imm` (R317). -/
  | bnoImm (imm : Byte)
  /-- `BNO X` (R318). -/
  | bnoX
  /-- `BNO Y` (R319). -/
  | bnoY
  /-- `BZ #imm` (R320). -/
  | bzImm (imm : Byte)
  /-- `BZ X` (R321). -/
  | bzX
  /-- `BZ Y` (R322). -/
  | bzY
  /-- `BNZ #imm` (R323). -/
  | bnzImm (imm : Byte)
  /-- `BNZ X` (R324). -/
  | bnzX
  /-- `BNZ Y` (R325). -/
  | bnzY
  /-- `BT #imm` (R326). -/
  | btImm (imm : Byte)
  /-- `BT X` (R327). -/
  | btX
  /-- `BT Y` (R328). -/
  | btY
  /-- `BNT #imm` (R329). -/
  | bntImm (imm : Byte)
  /-- `BNT X` (R330). -/
  | bntX
  /-- `BNT Y` (R331). -/
  | bntY
  /-- `BC #imm` (R332). -/
  | bcImm (imm : Byte)
  /-- `BC X` (R333). -/
  | bcX
  /-- `BC Y` (R334). -/
  | bcY
  /-- `BNC #imm` (R335). -/
  | bncImm (imm : Byte)
  /-- `BNC X` (R336). -/
  | bncX
  /-- `BNC Y` (R337). -/
  | bncY
  /-- `PUSH #imm` (R341). -/
  | pushImm (imm : Byte)
  /-- `PUSH [imm]` (R342). -/
  | pushAtImm (imm : Byte)
  /-- `PUSH [X]` (R343). -/
  | pushAtX
  /-- `PUSH [Y]` (R344). -/
  | pushAtY
  /-- `PUSH X` (R345). -/
  | pushX
  /-- `PUSH Y` (R346). -/
  | pushY
  /-- `POP [imm]` (R347). -/
  | popAtImm (imm : Byte)
  /-- `POP X` (R348). -/
  | popX
  /-- `POP Y` (R349). -/
  | popY
  /-- `POP [X]` (R350). -/
  | popAtX
  /-- `OUT X` (R356). -/
  | outX
  /-- `OUT Y` (R357). -/
  | outY
  /-- `OUT [imm]` (R358). -/
  | outAtImm (imm : Byte)
  /-- `OUT [X]` (R359). -/
  | outAtX
  /-- `OUT [Y]` (R360). -/
  | outAtY
  /-- `IN X` (R361). -/
  | inX
  /-- `IN Y` (R362). -/
  | inY
  /-- `IN [imm]` (R363). -/
  | inAtImm (imm : Byte)
  /-- `IN [X]` (R364). -/
  | inAtX
  /-- `IN [Y]` (R365). -/
  | inAtY
  /-- `NOP` (R366). -/
  | nop
  /-- `HLT` (R367). -/
  | hlt
  /-- Any of the 91 unassigned opcodes (R102, 40_engine_cycle.md R136). -/
  | unimplemented (op : Byte)
deriving DecidableEq, Repr

end Sys2Proof
end

