-- ==== Sys2Proof/WellFormed.lean ====
section
/-! DEFINITION. Well-formed instructions: the operand bytes are free, and only the opcode of `unimplemented` is checked. -/

namespace Sys2Proof

/-- The ranges of unassigned opcodes, first and last (30_encoding.md R102). -/
def unassignedRanges : List (Nat × Nat) :=
  [(0x0e, 0x0f), (0x18, 0x1f), (0x28, 0x2f), (0x38, 0x3f), (0x48, 0x4f), (0x5a, 0x5f), (0x68, 0x6f), (0x78, 0x7f),
   (0x8d, 0x8f), (0x94, 0x9f), (0xd6, 0xdf), (0xea, 0xef), (0xfa, 0xfd)]

/-- The opcode has no instruction in the table of R104 (R102). -/
def isUnassigned (op : Byte) : Bool := unassignedRanges.any fun r => decide (r.1 ≤ op.toNat) && decide (op.toNat ≤ r.2)

/-- An instruction that some opcode of the table of R104 stands for. -/
def wellFormed : Instr → Bool
  | .unimplemented op => isUnassigned op
  | .ldXImm _ | .ldXY | .ldXAtImm _ | .ldXAtY | .ldYImm _ | .ldYX | .ldYAtImm _ | .ldYAtX | .ldSPImm _
  | .stAtImmX _ | .stAtImmY _ | .stAtYX | .stAtXY | .ldXSP | .addXImm _ | .addXY | .addXAtImm _ | .addXAtY
  | .addYImm _ | .addYX | .addYAtImm _ | .addYAtX | .subXImm _ | .subXY | .subXAtImm _ | .subXAtY | .subYImm _
  | .subYX | .subYAtImm _ | .subYAtX | .mulXImm _ | .mulXY | .mulXAtImm _ | .mulXAtY | .mulYImm _ | .mulYX
  | .mulYAtImm _ | .mulYAtX | .divXImm _ | .divXY | .divXAtImm _ | .divXAtY | .divYImm _ | .divYX | .divYAtImm _
  | .divYAtX | .incX | .incY | .incAtImm _ | .incAtX | .incAtY | .decX | .decY | .decAtImm _ | .decAtX | .decAtY
  | .andXImm _ | .andXY | .andXAtImm _ | .andXAtY | .andYImm _ | .andYX | .andYAtImm _ | .andYAtX | .orXImm _
  | .orXY | .orXAtImm _ | .orXAtY | .orYImm _ | .orYX | .orYAtImm _ | .orYAtX | .xorXImm _ | .xorXY
  | .xorXAtImm _ | .xorXAtY | .xorYImm _ | .xorYX | .xorYAtImm _ | .xorYAtX | .clrX | .clrY | .clrAtImm _
  | .clrAtX | .clrAtY | .callImm _ | .callX | .callY | .ret | .jmpImm _ | .jmpX | .jmpY | .joImm _ | .joX | .joY
  | .jnoImm _ | .jnoX | .jnoY | .jzImm _ | .jzX | .jzY | .jnzImm _ | .jnzX | .jnzY | .jtImm _ | .jtX | .jtY
  | .jntImm _ | .jntX | .jntY | .jcImm _ | .jcX | .jcY | .jncImm _ | .jncX | .jncY | .brImm _ | .brX | .brY
  | .boImm _ | .boX | .boY | .bnoImm _ | .bnoX | .bnoY | .bzImm _ | .bzX | .bzY | .bnzImm _ | .bnzX | .bnzY
  | .btImm _ | .btX | .btY | .bntImm _ | .bntX | .bntY | .bcImm _ | .bcX | .bcY | .bncImm _ | .bncX | .bncY
  | .pushImm _ | .pushAtImm _ | .pushAtX | .pushAtY | .pushX | .pushY | .popAtImm _ | .popX | .popY | .popAtX
  | .outX | .outY | .outAtImm _ | .outAtX | .outAtY | .inX | .inY | .inAtImm _ | .inAtX | .inAtY | .nop | .hlt => true

end Sys2Proof
end

