-- ==== Sys2Proof/Decode.lean ====
section
/-! DEFINITION. The table of 30_encoding.md R104, which is OPCODE_MAP's default; what an OPCODE_MAP must keep; the decoder a map
gives, total on any bytes; and the encoder. The cells 0x00, 0x08, 0xe4, 0xe8, 0xfe and 0xff of the table are the source's
(R94), the others the spec's decision D3 (log 12). -/

namespace Sys2Proof

/-- A row of the opcode table: the opcode, the width, and the instruction an immediate byte gives. -/
structure OpcodeRow where
  opcode : Byte
  width : Nat
  build : Byte → Instr

/-- The row of a 1-byte instruction, which ignores the second byte (R91). -/
def oneByte (opcode : Byte) (i : Instr) : OpcodeRow := ⟨opcode, 1, fun _ => i⟩

/-- The row of a 2-byte instruction, which consumes the second byte (R91). -/
def twoByte (opcode : Byte) (build : Byte → Instr) : OpcodeRow := ⟨opcode, 2, build⟩

/-- Load and store, 0x00 to 0x0d (R97). -/
def loadStoreRows : List OpcodeRow :=
  [twoByte 0x00#8 .ldXImm, oneByte 0x01#8 .ldXY, twoByte 0x02#8 .ldXAtImm, oneByte 0x03#8 .ldXAtY,
   twoByte 0x04#8 .ldYImm, oneByte 0x05#8 .ldYX, twoByte 0x06#8 .ldYAtImm, oneByte 0x07#8 .ldYAtX,
   twoByte 0x08#8 .ldSPImm, twoByte 0x09#8 .stAtImmX, twoByte 0x0a#8 .stAtImmY, oneByte 0x0b#8 .stAtYX,
   oneByte 0x0c#8 .stAtXY, oneByte 0x0d#8 .ldXSP]

/-- ADD, 0x10 to 0x17 (R95). -/
def addRows : List OpcodeRow :=
  [twoByte 0x10#8 .addXImm, oneByte 0x11#8 .addXY, twoByte 0x12#8 .addXAtImm, oneByte 0x13#8 .addXAtY,
   twoByte 0x14#8 .addYImm, oneByte 0x15#8 .addYX, twoByte 0x16#8 .addYAtImm, oneByte 0x17#8 .addYAtX]

/-- SUB, 0x20 to 0x27 (R95). -/
def subRows : List OpcodeRow :=
  [twoByte 0x20#8 .subXImm, oneByte 0x21#8 .subXY, twoByte 0x22#8 .subXAtImm, oneByte 0x23#8 .subXAtY,
   twoByte 0x24#8 .subYImm, oneByte 0x25#8 .subYX, twoByte 0x26#8 .subYAtImm, oneByte 0x27#8 .subYAtX]

/-- MUL, 0x30 to 0x37 (R95). -/
def mulRows : List OpcodeRow :=
  [twoByte 0x30#8 .mulXImm, oneByte 0x31#8 .mulXY, twoByte 0x32#8 .mulXAtImm, oneByte 0x33#8 .mulXAtY,
   twoByte 0x34#8 .mulYImm, oneByte 0x35#8 .mulYX, twoByte 0x36#8 .mulYAtImm, oneByte 0x37#8 .mulYAtX]

/-- DIV, 0x40 to 0x47 (R95). -/
def divRows : List OpcodeRow :=
  [twoByte 0x40#8 .divXImm, oneByte 0x41#8 .divXY, twoByte 0x42#8 .divXAtImm, oneByte 0x43#8 .divXAtY,
   twoByte 0x44#8 .divYImm, oneByte 0x45#8 .divYX, twoByte 0x46#8 .divYAtImm, oneByte 0x47#8 .divYAtX]

/-- INC and DEC, 0x50 to 0x59 (R96). -/
def stepRows : List OpcodeRow :=
  [oneByte 0x50#8 .incX, oneByte 0x51#8 .incY, twoByte 0x52#8 .incAtImm, oneByte 0x53#8 .incAtX,
   oneByte 0x54#8 .incAtY, oneByte 0x55#8 .decX, oneByte 0x56#8 .decY, twoByte 0x57#8 .decAtImm,
   oneByte 0x58#8 .decAtX, oneByte 0x59#8 .decAtY]

/-- AND, 0x60 to 0x67 (R95). -/
def andRows : List OpcodeRow :=
  [twoByte 0x60#8 .andXImm, oneByte 0x61#8 .andXY, twoByte 0x62#8 .andXAtImm, oneByte 0x63#8 .andXAtY,
   twoByte 0x64#8 .andYImm, oneByte 0x65#8 .andYX, twoByte 0x66#8 .andYAtImm, oneByte 0x67#8 .andYAtX]

/-- OR, 0x70 to 0x77 (R95). -/
def orRows : List OpcodeRow :=
  [twoByte 0x70#8 .orXImm, oneByte 0x71#8 .orXY, twoByte 0x72#8 .orXAtImm, oneByte 0x73#8 .orXAtY,
   twoByte 0x74#8 .orYImm, oneByte 0x75#8 .orYX, twoByte 0x76#8 .orYAtImm, oneByte 0x77#8 .orYAtX]

/-- XOR, 0x80 to 0x87 (R95). -/
def xorRows : List OpcodeRow :=
  [twoByte 0x80#8 .xorXImm, oneByte 0x81#8 .xorXY, twoByte 0x82#8 .xorXAtImm, oneByte 0x83#8 .xorXAtY,
   twoByte 0x84#8 .xorYImm, oneByte 0x85#8 .xorYX, twoByte 0x86#8 .xorYAtImm, oneByte 0x87#8 .xorYAtX]

/-- CLR, 0x88 to 0x8c (R96). -/
def clrRows : List OpcodeRow :=
  [oneByte 0x88#8 .clrX, oneByte 0x89#8 .clrY, twoByte 0x8a#8 .clrAtImm, oneByte 0x8b#8 .clrAtX,
   oneByte 0x8c#8 .clrAtY]

/-- CALL and RET, 0x90 to 0x93 (R98). -/
def callRows : List OpcodeRow :=
  [twoByte 0x90#8 .callImm, oneByte 0x91#8 .callX, oneByte 0x92#8 .callY, oneByte 0x93#8 .ret]

/-- JMP, 0xa0 to 0xa2 (R98). -/
def jmpRows : List OpcodeRow :=
  [twoByte 0xa0#8 .jmpImm, oneByte 0xa1#8 .jmpX, oneByte 0xa2#8 .jmpY]

/-- Conditional jumps, 0xa3 to 0xba: 0xa3 + 6f + 3p + s (R99). -/
def jccRows : List OpcodeRow :=
  [twoByte 0xa3#8 .joImm, oneByte 0xa4#8 .joX, oneByte 0xa5#8 .joY, twoByte 0xa6#8 .jnoImm,
   oneByte 0xa7#8 .jnoX, oneByte 0xa8#8 .jnoY, twoByte 0xa9#8 .jzImm, oneByte 0xaa#8 .jzX, oneByte 0xab#8 .jzY,
   twoByte 0xac#8 .jnzImm, oneByte 0xad#8 .jnzX, oneByte 0xae#8 .jnzY, twoByte 0xaf#8 .jtImm,
   oneByte 0xb0#8 .jtX, oneByte 0xb1#8 .jtY, twoByte 0xb2#8 .jntImm, oneByte 0xb3#8 .jntX,
   oneByte 0xb4#8 .jntY, twoByte 0xb5#8 .jcImm, oneByte 0xb6#8 .jcX, oneByte 0xb7#8 .jcY,
   twoByte 0xb8#8 .jncImm, oneByte 0xb9#8 .jncX, oneByte 0xba#8 .jncY]

/-- BR, 0xbb to 0xbd (R98). -/
def brRows : List OpcodeRow :=
  [twoByte 0xbb#8 .brImm, oneByte 0xbc#8 .brX, oneByte 0xbd#8 .brY]

/-- Conditional branches, 0xbe to 0xd5: 0xbe + 6f + 3p + s (R99). -/
def bccRows : List OpcodeRow :=
  [twoByte 0xbe#8 .boImm, oneByte 0xbf#8 .boX, oneByte 0xc0#8 .boY, twoByte 0xc1#8 .bnoImm,
   oneByte 0xc2#8 .bnoX, oneByte 0xc3#8 .bnoY, twoByte 0xc4#8 .bzImm, oneByte 0xc5#8 .bzX, oneByte 0xc6#8 .bzY,
   twoByte 0xc7#8 .bnzImm, oneByte 0xc8#8 .bnzX, oneByte 0xc9#8 .bnzY, twoByte 0xca#8 .btImm,
   oneByte 0xcb#8 .btX, oneByte 0xcc#8 .btY, twoByte 0xcd#8 .bntImm, oneByte 0xce#8 .bntX,
   oneByte 0xcf#8 .bntY, twoByte 0xd0#8 .bcImm, oneByte 0xd1#8 .bcX, oneByte 0xd2#8 .bcY,
   twoByte 0xd3#8 .bncImm, oneByte 0xd4#8 .bncX, oneByte 0xd5#8 .bncY]

/-- PUSH and POP, 0xe0 to 0xe9 (R100). -/
def stackRows : List OpcodeRow :=
  [twoByte 0xe0#8 .pushImm, twoByte 0xe1#8 .pushAtImm, oneByte 0xe2#8 .pushAtX, oneByte 0xe3#8 .pushAtY,
   oneByte 0xe4#8 .pushX, oneByte 0xe5#8 .pushY, twoByte 0xe6#8 .popAtImm, oneByte 0xe7#8 .popX,
   oneByte 0xe8#8 .popY, oneByte 0xe9#8 .popAtX]

/-- OUT and IN, 0xf0 to 0xf9 (R96, R101). -/
def ioRows : List OpcodeRow :=
  [oneByte 0xf0#8 .outX, oneByte 0xf1#8 .outY, twoByte 0xf2#8 .outAtImm, oneByte 0xf3#8 .outAtX,
   oneByte 0xf4#8 .outAtY, oneByte 0xf5#8 .inX, oneByte 0xf6#8 .inY, twoByte 0xf7#8 .inAtImm,
   oneByte 0xf8#8 .inAtX, oneByte 0xf9#8 .inAtY]

/-- NOP and HLT, 0xfe and 0xff (R94). -/
def miscRows : List OpcodeRow :=
  [oneByte 0xfe#8 .nop, oneByte 0xff#8 .hlt]

/-- OPCODE_MAP's default: the 165 assigned opcodes (R104). -/
def opcodeTable : List OpcodeRow :=
  loadStoreRows ++ addRows ++ subRows ++ mulRows ++ divRows ++ stepRows ++ andRows ++ orRows ++ xorRows ++
  clrRows ++ callRows ++ jmpRows ++ jccRows ++ brRows ++ bccRows ++ stackRows ++ ioRows ++ miscRows

/-- The row R104 has at an opcode, if it assigns it. -/
def tableRow (op : Byte) : Option OpcodeRow := opcodeTable.find? fun r => r.opcode == op

/-- The opcodes the source fixes, which every OPCODE_MAP must keep (R94). -/
def fixedOpcodes : List Byte := [0x00#8, 0x08#8, 0xe4#8, 0xe8#8, 0xda#8, 0xfe#8, 0xff#8]

/-- The family ranges of the source, first and last opcode (R93). -/
def familyRanges : List (Nat × Nat) :=
  [(0x00, 0x0d), (0x10, 0x47), (0x50, 0x59), (0x60, 0x87), (0x88, 0x8c), (0x90, 0x93), (0xa0, 0xa2), (0xa3, 0xba),
   (0xbb, 0xbd), (0xbe, 0xd5), (0xe0, 0xe9), (0xf0, 0xf9), (0xfe, 0xfe), (0xff, 0xff)]

/-- Two opcodes lie in the range of one family. -/
def sameFamily (a b : Byte) : Bool :=
  familyRanges.any fun r =>
    decide (r.1 ≤ a.toNat) && decide (a.toNat ≤ r.2) && decide (r.1 ≤ b.toNat) && decide (b.toNat ≤ r.2)

/-- A cell that an OPCODE_MAP may have and R104 has not: the opcode is not fixed (R94), and its instruction is one of the
family in whose range it lies (R93), or it loses the one it has. -/
def legalCell (c : MapCell) : Bool :=
  !fixedOpcodes.contains c.opcode &&
    match c.sameAs with
    | none => (tableRow c.opcode).isSome
    | some k => decide (k ≠ c.opcode) && (tableRow k).isSome && sameFamily c.opcode k

/-- The opcodes of the list strictly rise. -/
def opcodesRise : OpcodeMap → Bool
  | [] => true
  | [_] => true
  | c :: d :: m => decide (c.opcode.toNat < d.opcode.toNat) && opcodesRise (d :: m)

/-- The list is an OPCODE_MAP, in canonical form: strictly rising opcodes, each cell legal. -/
def legalMap (m : OpcodeMap) : Bool := opcodesRise m && m.all legalCell

/-- The opcode at which R104 has what the map has at `op`; `none` where the map has no instruction. -/
def mapCell (m : OpcodeMap) (op : Byte) : Option Byte :=
  match m.find? fun c => c.opcode == op with
  | some c => c.sameAs
  | none => some op

/-- The row of the instruction a map has at an opcode, if it has one. -/
def rowOf (m : OpcodeMap) (op : Byte) : Option OpcodeRow := (mapCell m op).bind tableRow

/-- `Decode` (40_engine_cycle.md R124) under a map, on the two fetched bytes: total, the opcode alone selects the
instruction. -/
def decodeWord (m : OpcodeMap) (op imm : Byte) : Instr :=
  match rowOf m op with
  | some r => r.build imm
  | none => .unimplemented op

/-- The width of the instruction a map has at an opcode; 1 for an unassigned one (R91, R102). -/
def widthOfOpcode (m : OpcodeMap) (op : Byte) : Nat :=
  match rowOf m op with
  | some r => r.width
  | none => 1

/-- Why a list of bytes holds no instruction. -/
inductive DecodeError where
  /-- There is no byte. -/
  | noOpcode
  /-- The opcode's instruction consumes an immediate and there is no second byte. -/
  | noImmediate
deriving DecidableEq, Repr

/-- The instruction a map has at the head of a list of bytes, and the bytes after it. -/
def decode (m : OpcodeMap) : List Byte → Except DecodeError (Instr × List Byte)
  | [] => .error .noOpcode
  | op :: rest =>
    if widthOfOpcode m op = 1 then .ok (decodeWord m op 0#8, rest)
    else
      match rest with
      | [] => .error .noImmediate
      | imm :: rest' => .ok (decodeWord m op imm, rest')

/-- The bytes of an instruction in memory order (R90) under the table of R104: the opcode, and the immediate where it is
consumed. -/
def encode : Instr → List Byte
  | .ldXImm imm => [0x00#8, imm]
  | .ldXY => [0x01#8]
  | .ldXAtImm imm => [0x02#8, imm]
  | .ldXAtY => [0x03#8]
  | .ldYImm imm => [0x04#8, imm]
  | .ldYX => [0x05#8]
  | .ldYAtImm imm => [0x06#8, imm]
  | .ldYAtX => [0x07#8]
  | .ldSPImm imm => [0x08#8, imm]
  | .stAtImmX imm => [0x09#8, imm]
  | .stAtImmY imm => [0x0a#8, imm]
  | .stAtYX => [0x0b#8]
  | .stAtXY => [0x0c#8]
  | .ldXSP => [0x0d#8]
  | .addXImm imm => [0x10#8, imm]
  | .addXY => [0x11#8]
  | .addXAtImm imm => [0x12#8, imm]
  | .addXAtY => [0x13#8]
  | .addYImm imm => [0x14#8, imm]
  | .addYX => [0x15#8]
  | .addYAtImm imm => [0x16#8, imm]
  | .addYAtX => [0x17#8]
  | .subXImm imm => [0x20#8, imm]
  | .subXY => [0x21#8]
  | .subXAtImm imm => [0x22#8, imm]
  | .subXAtY => [0x23#8]
  | .subYImm imm => [0x24#8, imm]
  | .subYX => [0x25#8]
  | .subYAtImm imm => [0x26#8, imm]
  | .subYAtX => [0x27#8]
  | .mulXImm imm => [0x30#8, imm]
  | .mulXY => [0x31#8]
  | .mulXAtImm imm => [0x32#8, imm]
  | .mulXAtY => [0x33#8]
  | .mulYImm imm => [0x34#8, imm]
  | .mulYX => [0x35#8]
  | .mulYAtImm imm => [0x36#8, imm]
  | .mulYAtX => [0x37#8]
  | .divXImm imm => [0x40#8, imm]
  | .divXY => [0x41#8]
  | .divXAtImm imm => [0x42#8, imm]
  | .divXAtY => [0x43#8]
  | .divYImm imm => [0x44#8, imm]
  | .divYX => [0x45#8]
  | .divYAtImm imm => [0x46#8, imm]
  | .divYAtX => [0x47#8]
  | .incX => [0x50#8]
  | .incY => [0x51#8]
  | .incAtImm imm => [0x52#8, imm]
  | .incAtX => [0x53#8]
  | .incAtY => [0x54#8]
  | .decX => [0x55#8]
  | .decY => [0x56#8]
  | .decAtImm imm => [0x57#8, imm]
  | .decAtX => [0x58#8]
  | .decAtY => [0x59#8]
  | .andXImm imm => [0x60#8, imm]
  | .andXY => [0x61#8]
  | .andXAtImm imm => [0x62#8, imm]
  | .andXAtY => [0x63#8]
  | .andYImm imm => [0x64#8, imm]
  | .andYX => [0x65#8]
  | .andYAtImm imm => [0x66#8, imm]
  | .andYAtX => [0x67#8]
  | .orXImm imm => [0x70#8, imm]
  | .orXY => [0x71#8]
  | .orXAtImm imm => [0x72#8, imm]
  | .orXAtY => [0x73#8]
  | .orYImm imm => [0x74#8, imm]
  | .orYX => [0x75#8]
  | .orYAtImm imm => [0x76#8, imm]
  | .orYAtX => [0x77#8]
  | .xorXImm imm => [0x80#8, imm]
  | .xorXY => [0x81#8]
  | .xorXAtImm imm => [0x82#8, imm]
  | .xorXAtY => [0x83#8]
  | .xorYImm imm => [0x84#8, imm]
  | .xorYX => [0x85#8]
  | .xorYAtImm imm => [0x86#8, imm]
  | .xorYAtX => [0x87#8]
  | .clrX => [0x88#8]
  | .clrY => [0x89#8]
  | .clrAtImm imm => [0x8a#8, imm]
  | .clrAtX => [0x8b#8]
  | .clrAtY => [0x8c#8]
  | .callImm imm => [0x90#8, imm]
  | .callX => [0x91#8]
  | .callY => [0x92#8]
  | .ret => [0x93#8]
  | .jmpImm imm => [0xa0#8, imm]
  | .jmpX => [0xa1#8]
  | .jmpY => [0xa2#8]
  | .joImm imm => [0xa3#8, imm]
  | .joX => [0xa4#8]
  | .joY => [0xa5#8]
  | .jnoImm imm => [0xa6#8, imm]
  | .jnoX => [0xa7#8]
  | .jnoY => [0xa8#8]
  | .jzImm imm => [0xa9#8, imm]
  | .jzX => [0xaa#8]
  | .jzY => [0xab#8]
  | .jnzImm imm => [0xac#8, imm]
  | .jnzX => [0xad#8]
  | .jnzY => [0xae#8]
  | .jtImm imm => [0xaf#8, imm]
  | .jtX => [0xb0#8]
  | .jtY => [0xb1#8]
  | .jntImm imm => [0xb2#8, imm]
  | .jntX => [0xb3#8]
  | .jntY => [0xb4#8]
  | .jcImm imm => [0xb5#8, imm]
  | .jcX => [0xb6#8]
  | .jcY => [0xb7#8]
  | .jncImm imm => [0xb8#8, imm]
  | .jncX => [0xb9#8]
  | .jncY => [0xba#8]
  | .brImm imm => [0xbb#8, imm]
  | .brX => [0xbc#8]
  | .brY => [0xbd#8]
  | .boImm imm => [0xbe#8, imm]
  | .boX => [0xbf#8]
  | .boY => [0xc0#8]
  | .bnoImm imm => [0xc1#8, imm]
  | .bnoX => [0xc2#8]
  | .bnoY => [0xc3#8]
  | .bzImm imm => [0xc4#8, imm]
  | .bzX => [0xc5#8]
  | .bzY => [0xc6#8]
  | .bnzImm imm => [0xc7#8, imm]
  | .bnzX => [0xc8#8]
  | .bnzY => [0xc9#8]
  | .btImm imm => [0xca#8, imm]
  | .btX => [0xcb#8]
  | .btY => [0xcc#8]
  | .bntImm imm => [0xcd#8, imm]
  | .bntX => [0xce#8]
  | .bntY => [0xcf#8]
  | .bcImm imm => [0xd0#8, imm]
  | .bcX => [0xd1#8]
  | .bcY => [0xd2#8]
  | .bncImm imm => [0xd3#8, imm]
  | .bncX => [0xd4#8]
  | .bncY => [0xd5#8]
  | .pushImm imm => [0xe0#8, imm]
  | .pushAtImm imm => [0xe1#8, imm]
  | .pushAtX => [0xe2#8]
  | .pushAtY => [0xe3#8]
  | .pushX => [0xe4#8]
  | .pushY => [0xe5#8]
  | .popAtImm imm => [0xe6#8, imm]
  | .popX => [0xe7#8]
  | .popY => [0xe8#8]
  | .popAtX => [0xe9#8]
  | .outX => [0xf0#8]
  | .outY => [0xf1#8]
  | .outAtImm imm => [0xf2#8, imm]
  | .outAtX => [0xf3#8]
  | .outAtY => [0xf4#8]
  | .inX => [0xf5#8]
  | .inY => [0xf6#8]
  | .inAtImm imm => [0xf7#8, imm]
  | .inAtX => [0xf8#8]
  | .inAtY => [0xf9#8]
  | .nop => [0xfe#8]
  | .hlt => [0xff#8]
  | .unimplemented op => [op]

/-- The opcode of an instruction in R104: its first byte. -/
def opcodeOf (i : Instr) : Byte := (encode i).headD 0#8

/-- The width of an instruction: how many bytes it takes (R91). -/
def widthOf (i : Instr) : Nat := (encode i).length

/-- The opcodes at which a map has an instruction, by rising value. -/
def opcodesOf (m : OpcodeMap) (i : Instr) : List Byte :=
  ((List.range 256).map (BitVec.ofNat 8)).filter fun op => decide (decodeWord m op ((encode i).getD 1 0#8) = i)

/-- The bytes of an instruction under a map: the lowest of its opcodes, and the immediate where it is consumed; none where
the map does not have the instruction. -/
def encodeWith (m : OpcodeMap) (i : Instr) : Option (List Byte) :=
  (opcodesOf m i).head?.map fun op => op :: (encode i).tail

/-- Byte `k` of an instruction whose bits are numbered from the least significant bit of its first byte. -/
def tableByte (nbits w k : Nat) : Byte := BitVec.ofNat 8 (w % 2 ^ nbits / 256 ^ k)

/-- The instruction the decoder reads from the bits `w` of a row of spec/opcode_table.json that gives `nbits` bits, every
bit above them 0: bits 7 to 0 are byte 0, bits 15 to 8 byte 1 (30_encoding.md, after R104). -/
def decodeTableWord (nbits w : Nat) : Option Instr :=
  match decode defaultOpcodeMap [tableByte nbits w 0, tableByte nbits w 1] with
  | .ok r => some r.1
  | .error _ => none

end Sys2Proof
end

