-- ==== Sys2Proof/Machine/Memory.lean ====
section
/-! DEFINITION. Memory as a list in canonical form: its reset content, reading and writing one cell, and the canonical
form itself. These functions know no bound: MEM_SIZE is checked by `memRead` and `memWrite` of Machine/Ops.lean. -/

namespace Sys2Proof.Machine

/-- What an unlisted address reads as: the reset content of memory (70_reset_and_hazards.md R412) under the default
BOOT_IMAGE. -/
def resetByte (a : Nat) : Byte := bootImage.getD a fillByte

/-- The content of the cell at address `a`. -/
def readCell : Memory → Nat → Byte
  | [], a => resetByte a
  | (k, v) :: m, a => if k = a then v else readCell m a

/-- The list without any entry for address `a`. -/
def dropCell (m : Memory) (a : Nat) : Memory := m.filter fun c => c.1 ≠ a

/-- The entry `(a, v)` put before the first entry of a higher address. -/
def insertCell (a : Nat) (v : Byte) : Memory → Memory
  | [] => [(a, v)]
  | (k, w) :: m => if a < k then (a, v) :: (k, w) :: m else (k, w) :: insertCell a v m

/-- Writing `v` to the cell at address `a`: the entry goes where its value is the cell's reset content, and is listed
otherwise. -/
def writeCell (m : Memory) (a : Nat) (v : Byte) : Memory :=
  if v = resetByte a then dropCell m a else insertCell a v (dropCell m a)

/-- The addresses of the list strictly rise. -/
def addressesRise : Memory → Bool
  | [] => true
  | [_] => true
  | c :: d :: m => decide (c.1 < d.1) && addressesRise (d :: m)

/-- The canonical form of memory: strictly rising addresses, no entry equal to what its address reads as unlisted. -/
def Memory.wf (m : Memory) : Bool := addressesRise m && m.all fun c => decide (c.2 ≠ resetByte c.1)

/-- The memory of `n` cells whose content is `image` from address 0 and `fillByte` after it (R412). -/
def imageMemory (n : Nat) (image : List Byte) : Memory :=
  ((List.range n).map fun a => (a, image.getD a fillByte)).filter fun c => c.2 ≠ resetByte c.1

end Sys2Proof.Machine
end

