-- ==== Sys2Proof/Machine/Ops.lean ====
section
/-! DEFINITION. The shared operations of the cycle (40_engine_cycle.md): access to memory, the fetch, the stack, assigning
PC, taking a fatal fault, the program-counter policy, and the poll of a halted engine. -/

namespace Sys2Proof.Machine

/-- What a rule raises (00_scope.md R9): it ends the cycle, with nothing of it committed (R137). -/
inductive Raise where
  /-- MemoryFault at an address (60_exceptions.md R383). -/
  | memory (addr : Nat)
  /-- ArithmeticFault with the divisor (60_exceptions.md R384). -/
  | arithmetic (operand : Byte)
deriving DecidableEq, Repr

/-- `MemRead(a, 1)` (20_memory.md R62). -/
def memRead (a : Nat) (s : State) : Except Raise Byte :=
  if a < memSize s.params then .ok (readCell s.mem a) else .error (.memory a)

/-- `MemWrite(a, 1, v)` (20_memory.md R62). -/
def memWrite (a : Nat) (v : Byte) (s : State) : Except Raise State :=
  if a < memSize s.params then .ok { s with mem := writeCell s.mem a v } else .error (.memory a)

/-- The record of a fatal fault (60_exceptions.md R386). -/
def faultRecord (opcode : Option Byte) (pc : Byte) : Raise → FaultRecord
  | .memory a => ⟨.memoryFault, opcode, pc, a⟩
  | .arithmetic b => ⟨.arithmeticFault, opcode, pc, b.toNat⟩

/-- Taking a fatal fault (R137, 60_exceptions.md R385, R386): of the state before the faulting cycle only the run state
changes. There is no vector, no saved register and no return (R388, R389). -/
def raiseFault (opcode : Option Byte) (r : Raise) (s : State) : State :=
  { s with run := .faulted (faultRecord opcode s.pc r) }

/-- `Fetch()` (R122): the opcode at PC and the immediate at PC + 1, which is not reduced modulo 256. A fault comes with the
opcode where byte 0 was read (R123). -/
def fetch (s : State) : Except (Option Byte × Raise) (Byte × Byte) :=
  match memRead s.pc.toNat s with
  | .error r => .error (none, r)
  | .ok op =>
    match memRead (s.pc.toNat + 1) s with
    | .error r => .error (some op, r)
    | .ok imm => .ok (op, imm)

/-- What the execute stage of one instruction leaves: the state it wrote, and whether it assigned PC (10_state.md R39). -/
structure Effect where
  state : State
  pcAssigned : Bool
deriving DecidableEq, Repr

/-- The end of an instruction that did not assign PC. -/
def fallThrough (s : State) : Effect := ⟨s, false⟩

/-- `pc <- target` (R135). -/
def assignPc (target : Byte) (s : State) : Effect := ⟨{ s with pc := target }, true⟩

/-- `PC <- (PC + w) mod 256` (R134). -/
def advancePc (w : Nat) (s : State) : State := { s with pc := s.pc + BitVec.ofNat 8 w }

/-- The opcode of the cycle begun in `s`: the byte at PC (R122). -/
def opcodeAtPc (s : State) : Byte := readCell s.mem s.pc.toNat

/-- The end of a cycle of the instruction `i` begun in `s` (R121, R134, R137): a raise commits nothing and is taken as a
fatal fault, with the opcode fetched; otherwise PC advances by the width of `i` unless the instruction assigned it or the run state left Running. -/
def complete (i : Instr) (s : State) : Except Raise Effect → Host.Outcome State Fault Refusal
  | .error r => .next (raiseFault (some (opcodeAtPc s)) r s)
  | .ok e =>
    .next (if e.pcAssigned = false ∧ e.state.run = .running then advancePc (widthOf i) e.state else e.state)

/-- `Push(v)` (R131): the write at SP, then the increment. -/
def push (v : Byte) (s : State) : Except Raise State :=
  (memWrite s.sp.toNat v s).map fun s' => { s' with sp := s'.sp + 1#8 }

/-- `Pop()` (R132): the decrement, then the read at SP. -/
def pop (s : State) : Except Raise (Byte × State) :=
  let s' := { s with sp := s.sp - 1#8 }
  (memRead s'.sp.toNat s').map fun v => (v, s')

/-- A cycle in run state Halted (R139): one poll of the Trap flag. -/
def pollTrap (s : State) : State :=
  if flagSet .t s.f then { advancePc 1 s with run := .running } else s

/-- `s` with an instruction's two bytes at PC and PC + 1, and running. A byte whose address is outside memory is not
stored. -/
def placeWord (op imm : Byte) (s : State) : State :=
  let put := fun (a : Nat) (v : Byte) (m : Memory) => if a < memSize s.params then writeCell m a v else m
  { s with mem := put (s.pc.toNat + 1) imm (put s.pc.toNat op s.mem), run := .running }

end Sys2Proof.Machine
end

