-- ==== Sys2Proof/Machine/Operands.lean ====
section
/-! DEFINITION. The operands (00_scope.md R10, 30_encoding.md R92), reading and writing them (40_engine_cycle.md R125,
R126), and the operations the data families share: copying, a binary operation, and a read-modify-write (R127). -/

namespace Sys2Proof.Machine

/-- An operand source: an immediate byte, a register, or a memory cell. -/
inductive Src where
  /-- `#imm`. -/
  | imm (v : Byte)
  | x
  | y
  | sp
  /-- `[imm]`. -/
  | atImm (a : Byte)
  /-- `[X]`. -/
  | atX
  /-- `[Y]`. -/
  | atY
deriving DecidableEq, Repr

/-- An operand destination: a register or a memory cell. -/
inductive Dst where
  | x
  | y
  | sp
  /-- `[imm]`. -/
  | atImm (a : Byte)
  /-- `[X]`. -/
  | atX
  /-- `[Y]`. -/
  | atY
deriving DecidableEq, Repr

/-- `Val(src)` (R125). -/
def val : Src → State → Except Raise Byte
  | .imm v, _ => .ok v
  | .x, s => .ok s.x
  | .y, s => .ok s.y
  | .sp, s => .ok s.sp
  | .atImm a, s => memRead a.toNat s
  | .atX, s => memRead s.x.toNat s
  | .atY, s => memRead s.y.toNat s

/-- `Write(dst, v)` (R126): an address register is read when the write is performed. -/
def writeTo : Dst → Byte → State → Except Raise State
  | .x, v, s => .ok { s with x := v }
  | .y, v, s => .ok { s with y := v }
  | .sp, v, s => .ok { s with sp := v }
  | .atImm a, v, s => memWrite a.toNat v s
  | .atX, v, s => memWrite s.x.toNat v s
  | .atY, v, s => memWrite s.y.toNat v s

/-- The source that reads what a destination writes, for an operand that is both (R127). -/
def sourceOf : Dst → Src
  | .x => .x
  | .y => .y
  | .sp => .sp
  | .atImm a => .atImm a
  | .atX => .atX
  | .atY => .atY

/-- Copying one byte from a source to a destination, no flags written (41_load_store.md R150). -/
def move (d : Dst) (src : Src) (s : State) : Except Raise Effect := do
  let v ← val src s
  let s' ← writeTo d v s
  return fallThrough s'

/-- Writing a result: the destination receives `t[7:0]` and the flags follow `t` (42_arithmetic.md R170). -/
def writeResult (d : Dst) (t : Wide) (s : State) : Except Raise Effect := do
  let s' ← writeTo d (lowByte t) s
  return fallThrough { s' with f := applyFlags t s'.f }

/-- `D <- D op S` with flags (42_arithmetic.md R170, 44_logic_and_clear.md R230): the destination is read, then the
source, then the result is formed (it may raise), then written. -/
def binary (op : Byte → Byte → Except Raise Wide) (d : Dst) (src : Src) (s : State) : Except Raise Effect := do
  let a ← val (sourceOf d) s
  let b ← val src s
  let t ← op a b
  writeResult d t s

/-- A binary operation that raises nothing. -/
def total (op : Byte → Byte → Wide) (a b : Byte) : Except Raise Wide := .ok (op a b)

/-- A read-modify-write with flags (43_increment_decrement.md R210, 44_logic_and_clear.md R255). -/
def update (op : Byte → Wide) (d : Dst) (s : State) : Except Raise Effect := do
  let a ← val (sourceOf d) s
  writeResult d (op a) s

end Sys2Proof.Machine
end

