-- ==== Sys2Proof/Machine/Arithmetic.lean ====
section
/-! DEFINITION. The arithmetic family: ADD, SUB, MUL, DIV (42_arithmetic.md R170 to R203). -/

namespace Sys2Proof.Machine

/-- DIV's operation (R171): a divisor of 0 raises ArithmeticFault. -/
def divide (a b : Byte) : Except Raise Wide := if b = 0#8 then .error (.arithmetic b) else .ok (divWide a b)

/-- `ADD X, #imm` (R172). -/
def execAddXImm (imm : Byte) (s : State) : Host.Outcome State Fault Refusal :=
  complete (.addXImm imm) s (binary (total addWide) .x (.imm imm) s)

/-- `ADD X, Y` (R173). -/
def execAddXY (s : State) : Host.Outcome State Fault Refusal :=
  complete .addXY s (binary (total addWide) .x .y s)

/-- `ADD X, [imm]` (R174). -/
def execAddXAtImm (imm : Byte) (s : State) : Host.Outcome State Fault Refusal :=
  complete (.addXAtImm imm) s (binary (total addWide) .x (.atImm imm) s)

/-- `ADD X, [Y]` (R175). -/
def execAddXAtY (s : State) : Host.Outcome State Fault Refusal :=
  complete .addXAtY s (binary (total addWide) .x .atY s)

/-- `ADD Y, #imm` (R176). -/
def execAddYImm (imm : Byte) (s : State) : Host.Outcome State Fault Refusal :=
  complete (.addYImm imm) s (binary (total addWide) .y (.imm imm) s)

/-- `ADD Y, X` (R177). -/
def execAddYX (s : State) : Host.Outcome State Fault Refusal :=
  complete .addYX s (binary (total addWide) .y .x s)

/-- `ADD Y, [imm]` (R178). -/
def execAddYAtImm (imm : Byte) (s : State) : Host.Outcome State Fault Refusal :=
  complete (.addYAtImm imm) s (binary (total addWide) .y (.atImm imm) s)

/-- `ADD Y, [X]` (R179). -/
def execAddYAtX (s : State) : Host.Outcome State Fault Refusal :=
  complete .addYAtX s (binary (total addWide) .y .atX s)

/-- `SUB X, #imm` (R180). -/
def execSubXImm (imm : Byte) (s : State) : Host.Outcome State Fault Refusal :=
  complete (.subXImm imm) s (binary (total subWide) .x (.imm imm) s)

/-- `SUB X, Y` (R181). -/
def execSubXY (s : State) : Host.Outcome State Fault Refusal :=
  complete .subXY s (binary (total subWide) .x .y s)

/-- `SUB X, [imm]` (R182). -/
def execSubXAtImm (imm : Byte) (s : State) : Host.Outcome State Fault Refusal :=
  complete (.subXAtImm imm) s (binary (total subWide) .x (.atImm imm) s)

/-- `SUB X, [Y]` (R183). -/
def execSubXAtY (s : State) : Host.Outcome State Fault Refusal :=
  complete .subXAtY s (binary (total subWide) .x .atY s)

/-- `SUB Y, #imm` (R184). -/
def execSubYImm (imm : Byte) (s : State) : Host.Outcome State Fault Refusal :=
  complete (.subYImm imm) s (binary (total subWide) .y (.imm imm) s)

/-- `SUB Y, X` (R185). -/
def execSubYX (s : State) : Host.Outcome State Fault Refusal :=
  complete .subYX s (binary (total subWide) .y .x s)

/-- `SUB Y, [imm]` (R186). -/
def execSubYAtImm (imm : Byte) (s : State) : Host.Outcome State Fault Refusal :=
  complete (.subYAtImm imm) s (binary (total subWide) .y (.atImm imm) s)

/-- `SUB Y, [X]` (R187). -/
def execSubYAtX (s : State) : Host.Outcome State Fault Refusal :=
  complete .subYAtX s (binary (total subWide) .y .atX s)

/-- `MUL X, #imm` (R188). -/
def execMulXImm (imm : Byte) (s : State) : Host.Outcome State Fault Refusal :=
  complete (.mulXImm imm) s (binary (total mulWide) .x (.imm imm) s)

/-- `MUL X, Y` (R189). -/
def execMulXY (s : State) : Host.Outcome State Fault Refusal :=
  complete .mulXY s (binary (total mulWide) .x .y s)

/-- `MUL X, [imm]` (R190). -/
def execMulXAtImm (imm : Byte) (s : State) : Host.Outcome State Fault Refusal :=
  complete (.mulXAtImm imm) s (binary (total mulWide) .x (.atImm imm) s)

/-- `MUL X, [Y]` (R191). -/
def execMulXAtY (s : State) : Host.Outcome State Fault Refusal :=
  complete .mulXAtY s (binary (total mulWide) .x .atY s)

/-- `MUL Y, #imm` (R192). -/
def execMulYImm (imm : Byte) (s : State) : Host.Outcome State Fault Refusal :=
  complete (.mulYImm imm) s (binary (total mulWide) .y (.imm imm) s)

/-- `MUL Y, X` (R193). -/
def execMulYX (s : State) : Host.Outcome State Fault Refusal :=
  complete .mulYX s (binary (total mulWide) .y .x s)

/-- `MUL Y, [imm]` (R194). -/
def execMulYAtImm (imm : Byte) (s : State) : Host.Outcome State Fault Refusal :=
  complete (.mulYAtImm imm) s (binary (total mulWide) .y (.atImm imm) s)

/-- `MUL Y, [X]` (R195). -/
def execMulYAtX (s : State) : Host.Outcome State Fault Refusal :=
  complete .mulYAtX s (binary (total mulWide) .y .atX s)

/-- `DIV X, #imm` (R196). -/
def execDivXImm (imm : Byte) (s : State) : Host.Outcome State Fault Refusal :=
  complete (.divXImm imm) s (binary divide .x (.imm imm) s)

/-- `DIV X, Y` (R197). -/
def execDivXY (s : State) : Host.Outcome State Fault Refusal :=
  complete .divXY s (binary divide .x .y s)

/-- `DIV X, [imm]` (R198). -/
def execDivXAtImm (imm : Byte) (s : State) : Host.Outcome State Fault Refusal :=
  complete (.divXAtImm imm) s (binary divide .x (.atImm imm) s)

/-- `DIV X, [Y]` (R199). -/
def execDivXAtY (s : State) : Host.Outcome State Fault Refusal :=
  complete .divXAtY s (binary divide .x .atY s)

/-- `DIV Y, #imm` (R200). -/
def execDivYImm (imm : Byte) (s : State) : Host.Outcome State Fault Refusal :=
  complete (.divYImm imm) s (binary divide .y (.imm imm) s)

/-- `DIV Y, X` (R201). -/
def execDivYX (s : State) : Host.Outcome State Fault Refusal :=
  complete .divYX s (binary divide .y .x s)

/-- `DIV Y, [imm]` (R202). -/
def execDivYAtImm (imm : Byte) (s : State) : Host.Outcome State Fault Refusal :=
  complete (.divYAtImm imm) s (binary divide .y (.atImm imm) s)

/-- `DIV Y, [X]` (R203). -/
def execDivYAtX (s : State) : Host.Outcome State Fault Refusal :=
  complete .divYAtX s (binary divide .y .atX s)

end Sys2Proof.Machine
end

