-- ==== Sys2Proof/Machine/Branch.lean ====
section
/-! DEFINITION. The relative branch family, unconditional and conditional (47_relative_branches.md R310 to R337). -/

namespace Sys2Proof.Machine

/-- A relative branch (R310, 40_engine_cycle.md R133): PC and the flags follow `RelAdd` of the operand. -/
def branch (src : Src) (s : State) : Except Raise Effect := do
  let v ← val src s
  let t := relAdd s.pc v
  return assignPc (lowByte t) { s with f := applyFlags t s.f }

/-- A conditional branch (R310): as `branch` where Cond holds, otherwise nothing, the flags included. -/
def branchIf (fl : Flag) (p : Polarity) (src : Src) (s : State) : Except Raise Effect :=
  if condHolds fl p s.f then branch src s else .ok (fallThrough s)

/-- `BR #imm` (R311). -/
def execBrImm (imm : Byte) (s : State) : Host.Outcome State Fault Refusal :=
  complete (.brImm imm) s (branch (.imm imm) s)

/-- `BR X` (R312). -/
def execBrX (s : State) : Host.Outcome State Fault Refusal :=
  complete .brX s (branch .x s)

/-- `BR Y` (R313). -/
def execBrY (s : State) : Host.Outcome State Fault Refusal :=
  complete .brY s (branch .y s)

/-- `BO #imm` (R314). -/
def execBoImm (imm : Byte) (s : State) : Host.Outcome State Fault Refusal :=
  complete (.boImm imm) s (branchIf .o .ifSet (.imm imm) s)

/-- `BO X` (R315). -/
def execBoX (s : State) : Host.Outcome State Fault Refusal :=
  complete .boX s (branchIf .o .ifSet .x s)

/-- `BO Y` (R316). -/
def execBoY (s : State) : Host.Outcome State Fault Refusal :=
  complete .boY s (branchIf .o .ifSet .y s)

/-- `BNO #imm` (R317). -/
def execBnoImm (imm : Byte) (s : State) : Host.Outcome State Fault Refusal :=
  complete (.bnoImm imm) s (branchIf .o .ifClear (.imm imm) s)

/-- `BNO X` (R318). -/
def execBnoX (s : State) : Host.Outcome State Fault Refusal :=
  complete .bnoX s (branchIf .o .ifClear .x s)

/-- `BNO Y` (R319). -/
def execBnoY (s : State) : Host.Outcome State Fault Refusal :=
  complete .bnoY s (branchIf .o .ifClear .y s)

/-- `BZ #imm` (R320). -/
def execBzImm (imm : Byte) (s : State) : Host.Outcome State Fault Refusal :=
  complete (.bzImm imm) s (branchIf .z .ifSet (.imm imm) s)

/-- `BZ X` (R321). -/
def execBzX (s : State) : Host.Outcome State Fault Refusal :=
  complete .bzX s (branchIf .z .ifSet .x s)

/-- `BZ Y` (R322). -/
def execBzY (s : State) : Host.Outcome State Fault Refusal :=
  complete .bzY s (branchIf .z .ifSet .y s)

/-- `BNZ #imm` (R323). -/
def execBnzImm (imm : Byte) (s : State) : Host.Outcome State Fault Refusal :=
  complete (.bnzImm imm) s (branchIf .z .ifClear (.imm imm) s)

/-- `BNZ X` (R324). -/
def execBnzX (s : State) : Host.Outcome State Fault Refusal :=
  complete .bnzX s (branchIf .z .ifClear .x s)

/-- `BNZ Y` (R325). -/
def execBnzY (s : State) : Host.Outcome State Fault Refusal :=
  complete .bnzY s (branchIf .z .ifClear .y s)

/-- `BT #imm` (R326). -/
def execBtImm (imm : Byte) (s : State) : Host.Outcome State Fault Refusal :=
  complete (.btImm imm) s (branchIf .t .ifSet (.imm imm) s)

/-- `BT X` (R327). -/
def execBtX (s : State) : Host.Outcome State Fault Refusal :=
  complete .btX s (branchIf .t .ifSet .x s)

/-- `BT Y` (R328). -/
def execBtY (s : State) : Host.Outcome State Fault Refusal :=
  complete .btY s (branchIf .t .ifSet .y s)

/-- `BNT #imm` (R329). -/
def execBntImm (imm : Byte) (s : State) : Host.Outcome State Fault Refusal :=
  complete (.bntImm imm) s (branchIf .t .ifClear (.imm imm) s)

/-- `BNT X` (R330). -/
def execBntX (s : State) : Host.Outcome State Fault Refusal :=
  complete .bntX s (branchIf .t .ifClear .x s)

/-- `BNT Y` (R331). -/
def execBntY (s : State) : Host.Outcome State Fault Refusal :=
  complete .bntY s (branchIf .t .ifClear .y s)

/-- `BC #imm` (R332). -/
def execBcImm (imm : Byte) (s : State) : Host.Outcome State Fault Refusal :=
  complete (.bcImm imm) s (branchIf .c .ifSet (.imm imm) s)

/-- `BC X` (R333). -/
def execBcX (s : State) : Host.Outcome State Fault Refusal :=
  complete .bcX s (branchIf .c .ifSet .x s)

/-- `BC Y` (R334). -/
def execBcY (s : State) : Host.Outcome State Fault Refusal :=
  complete .bcY s (branchIf .c .ifSet .y s)

/-- `BNC #imm` (R335). -/
def execBncImm (imm : Byte) (s : State) : Host.Outcome State Fault Refusal :=
  complete (.bncImm imm) s (branchIf .c .ifClear (.imm imm) s)

/-- `BNC X` (R336). -/
def execBncX (s : State) : Host.Outcome State Fault Refusal :=
  complete .bncX s (branchIf .c .ifClear .x s)

/-- `BNC Y` (R337). -/
def execBncY (s : State) : Host.Outcome State Fault Refusal :=
  complete .bncY s (branchIf .c .ifClear .y s)

end Sys2Proof.Machine
end

