-- ==== Sys2Proof/Machine/CallReturn.lean ====
section
/-! DEFINITION. The call/return family (45_call_return.md R270 to R274). -/

namespace Sys2Proof.Machine

/-- CALL of width `w` (R270): the return address PC + w is pushed, then PC is assigned. -/
def call (w : Nat) (src : Src) (s : State) : Except Raise Effect := do
  let target ← val src s
  let s' ← push (s.pc + BitVec.ofNat 8 w) s
  return assignPc target s'

/-- RET (R274): the popped byte is assigned to PC. -/
def ret (s : State) : Except Raise Effect := do
  let r ← pop s
  return assignPc r.1 r.2

/-- `CALL #imm` (R271). -/
def execCallImm (imm : Byte) (s : State) : Host.Outcome State Fault Refusal :=
  complete (.callImm imm) s (call 2 (.imm imm) s)

/-- `CALL X` (R272). -/
def execCallX (s : State) : Host.Outcome State Fault Refusal :=
  complete .callX s (call 1 .x s)

/-- `CALL Y` (R273). -/
def execCallY (s : State) : Host.Outcome State Fault Refusal :=
  complete .callY s (call 1 .y s)

/-- `RET` (R274). -/
def execRet (s : State) : Host.Outcome State Fault Refusal :=
  complete .ret s (ret s)

end Sys2Proof.Machine
end

