-- ==== Sys2Proof/Machine/IncDec.lean ====
section
/-! DEFINITION. The increment/decrement family (43_increment_decrement.md R210 to R220). -/

namespace Sys2Proof.Machine

/-- `INC X` (R211). -/
def execIncX (s : State) : Host.Outcome State Fault Refusal :=
  complete .incX s (update incWide .x s)

/-- `INC Y` (R212). -/
def execIncY (s : State) : Host.Outcome State Fault Refusal :=
  complete .incY s (update incWide .y s)

/-- `INC [imm]` (R213). -/
def execIncAtImm (imm : Byte) (s : State) : Host.Outcome State Fault Refusal :=
  complete (.incAtImm imm) s (update incWide (.atImm imm) s)

/-- `INC [X]` (R214). -/
def execIncAtX (s : State) : Host.Outcome State Fault Refusal :=
  complete .incAtX s (update incWide .atX s)

/-- `INC [Y]` (R215). -/
def execIncAtY (s : State) : Host.Outcome State Fault Refusal :=
  complete .incAtY s (update incWide .atY s)

/-- `DEC X` (R216). -/
def execDecX (s : State) : Host.Outcome State Fault Refusal :=
  complete .decX s (update decWide .x s)

/-- `DEC Y` (R217). -/
def execDecY (s : State) : Host.Outcome State Fault Refusal :=
  complete .decY s (update decWide .y s)

/-- `DEC [imm]` (R218). -/
def execDecAtImm (imm : Byte) (s : State) : Host.Outcome State Fault Refusal :=
  complete (.decAtImm imm) s (update decWide (.atImm imm) s)

/-- `DEC [X]` (R219). -/
def execDecAtX (s : State) : Host.Outcome State Fault Refusal :=
  complete .decAtX s (update decWide .atX s)

/-- `DEC [Y]` (R220). -/
def execDecAtY (s : State) : Host.Outcome State Fault Refusal :=
  complete .decAtY s (update decWide .atY s)

end Sys2Proof.Machine
end

