-- ==== Sys2Proof/Machine/Jump.lean ====
section
/-! DEFINITION. The jump family, unconditional and conditional (46_jumps.md R280 to R307). -/

namespace Sys2Proof.Machine

/-- A jump to the absolute address an operand holds (R280). -/
def jump (src : Src) (s : State) : Except Raise Effect := do
  let target ← val src s
  return assignPc target s

/-- A conditional jump (R280): as `jump` where Cond holds, otherwise nothing. -/
def jumpIf (fl : Flag) (p : Polarity) (src : Src) (s : State) : Except Raise Effect :=
  if condHolds fl p s.f then jump src s else .ok (fallThrough s)

/-- `JMP #imm` (R281). -/
def execJmpImm (imm : Byte) (s : State) : Host.Outcome State Fault Refusal :=
  complete (.jmpImm imm) s (jump (.imm imm) s)

/-- `JMP X` (R282). -/
def execJmpX (s : State) : Host.Outcome State Fault Refusal :=
  complete .jmpX s (jump .x s)

/-- `JMP Y` (R283). -/
def execJmpY (s : State) : Host.Outcome State Fault Refusal :=
  complete .jmpY s (jump .y s)

/-- `JO #imm` (R284). -/
def execJoImm (imm : Byte) (s : State) : Host.Outcome State Fault Refusal :=
  complete (.joImm imm) s (jumpIf .o .ifSet (.imm imm) s)

/-- `JO X` (R285). -/
def execJoX (s : State) : Host.Outcome State Fault Refusal :=
  complete .joX s (jumpIf .o .ifSet .x s)

/-- `JO Y` (R286). -/
def execJoY (s : State) : Host.Outcome State Fault Refusal :=
  complete .joY s (jumpIf .o .ifSet .y s)

/-- `JNO #imm` (R287). -/
def execJnoImm (imm : Byte) (s : State) : Host.Outcome State Fault Refusal :=
  complete (.jnoImm imm) s (jumpIf .o .ifClear (.imm imm) s)

/-- `JNO X` (R288). -/
def execJnoX (s : State) : Host.Outcome State Fault Refusal :=
  complete .jnoX s (jumpIf .o .ifClear .x s)

/-- `JNO Y` (R289). -/
def execJnoY (s : State) : Host.Outcome State Fault Refusal :=
  complete .jnoY s (jumpIf .o .ifClear .y s)

/-- `JZ #imm` (R290). -/
def execJzImm (imm : Byte) (s : State) : Host.Outcome State Fault Refusal :=
  complete (.jzImm imm) s (jumpIf .z .ifSet (.imm imm) s)

/-- `JZ X` (R291). -/
def execJzX (s : State) : Host.Outcome State Fault Refusal :=
  complete .jzX s (jumpIf .z .ifSet .x s)

/-- `JZ Y` (R292). -/
def execJzY (s : State) : Host.Outcome State Fault Refusal :=
  complete .jzY s (jumpIf .z .ifSet .y s)

/-- `JNZ #imm` (R293). -/
def execJnzImm (imm : Byte) (s : State) : Host.Outcome State Fault Refusal :=
  complete (.jnzImm imm) s (jumpIf .z .ifClear (.imm imm) s)

/-- `JNZ X` (R294). -/
def execJnzX (s : State) : Host.Outcome State Fault Refusal :=
  complete .jnzX s (jumpIf .z .ifClear .x s)

/-- `JNZ Y` (R295). -/
def execJnzY (s : State) : Host.Outcome State Fault Refusal :=
  complete .jnzY s (jumpIf .z .ifClear .y s)

/-- `JT #imm` (R296). -/
def execJtImm (imm : Byte) (s : State) : Host.Outcome State Fault Refusal :=
  complete (.jtImm imm) s (jumpIf .t .ifSet (.imm imm) s)

/-- `JT X` (R297). -/
def execJtX (s : State) : Host.Outcome State Fault Refusal :=
  complete .jtX s (jumpIf .t .ifSet .x s)

/-- `JT Y` (R298). -/
def execJtY (s : State) : Host.Outcome State Fault Refusal :=
  complete .jtY s (jumpIf .t .ifSet .y s)

/-- `JNT #imm` (R299). -/
def execJntImm (imm : Byte) (s : State) : Host.Outcome State Fault Refusal :=
  complete (.jntImm imm) s (jumpIf .t .ifClear (.imm imm) s)

/-- `JNT X` (R300). -/
def execJntX (s : State) : Host.Outcome State Fault Refusal :=
  complete .jntX s (jumpIf .t .ifClear .x s)

/-- `JNT Y` (R301). -/
def execJntY (s : State) : Host.Outcome State Fault Refusal :=
  complete .jntY s (jumpIf .t .ifClear .y s)

/-- `JC #imm` (R302). -/
def execJcImm (imm : Byte) (s : State) : Host.Outcome State Fault Refusal :=
  complete (.jcImm imm) s (jumpIf .c .ifSet (.imm imm) s)

/-- `JC X` (R303). -/
def execJcX (s : State) : Host.Outcome State Fault Refusal :=
  complete .jcX s (jumpIf .c .ifSet .x s)

/-- `JC Y` (R304). -/
def execJcY (s : State) : Host.Outcome State Fault Refusal :=
  complete .jcY s (jumpIf .c .ifSet .y s)

/-- `JNC #imm` (R305). -/
def execJncImm (imm : Byte) (s : State) : Host.Outcome State Fault Refusal :=
  complete (.jncImm imm) s (jumpIf .c .ifClear (.imm imm) s)

/-- `JNC X` (R306). -/
def execJncX (s : State) : Host.Outcome State Fault Refusal :=
  complete .jncX s (jumpIf .c .ifClear .x s)

/-- `JNC Y` (R307). -/
def execJncY (s : State) : Host.Outcome State Fault Refusal :=
  complete .jncY s (jumpIf .c .ifClear .y s)

end Sys2Proof.Machine
end

