-- ==== Sys2Proof/Machine/LoadStore.lean ====
section
/-! DEFINITION. The Load/Store family (41_load_store.md R150 to R164). -/

namespace Sys2Proof.Machine

/-- `LD X, #imm` (R151). -/
def execLdXImm (imm : Byte) (s : State) : Host.Outcome State Fault Refusal :=
  complete (.ldXImm imm) s (move .x (.imm imm) s)

/-- `LD X, Y` (R152). -/
def execLdXY (s : State) : Host.Outcome State Fault Refusal :=
  complete .ldXY s (move .x .y s)

/-- `LD X, [imm]` (R153). -/
def execLdXAtImm (imm : Byte) (s : State) : Host.Outcome State Fault Refusal :=
  complete (.ldXAtImm imm) s (move .x (.atImm imm) s)

/-- `LD X, [Y]` (R154). -/
def execLdXAtY (s : State) : Host.Outcome State Fault Refusal :=
  complete .ldXAtY s (move .x .atY s)

/-- `LD Y, #imm` (R155). -/
def execLdYImm (imm : Byte) (s : State) : Host.Outcome State Fault Refusal :=
  complete (.ldYImm imm) s (move .y (.imm imm) s)

/-- `LD Y, X` (R156). -/
def execLdYX (s : State) : Host.Outcome State Fault Refusal :=
  complete .ldYX s (move .y .x s)

/-- `LD Y, [imm]` (R157). -/
def execLdYAtImm (imm : Byte) (s : State) : Host.Outcome State Fault Refusal :=
  complete (.ldYAtImm imm) s (move .y (.atImm imm) s)

/-- `LD Y, [X]` (R158). -/
def execLdYAtX (s : State) : Host.Outcome State Fault Refusal :=
  complete .ldYAtX s (move .y .atX s)

/-- `LD SP, #imm` (R159). -/
def execLdSPImm (imm : Byte) (s : State) : Host.Outcome State Fault Refusal :=
  complete (.ldSPImm imm) s (move .sp (.imm imm) s)

/-- `ST [imm], X` (R160). -/
def execStAtImmX (imm : Byte) (s : State) : Host.Outcome State Fault Refusal :=
  complete (.stAtImmX imm) s (move (.atImm imm) .x s)

/-- `ST [imm], Y` (R161). -/
def execStAtImmY (imm : Byte) (s : State) : Host.Outcome State Fault Refusal :=
  complete (.stAtImmY imm) s (move (.atImm imm) .y s)

/-- `ST [Y], X` (R162). -/
def execStAtYX (s : State) : Host.Outcome State Fault Refusal :=
  complete .stAtYX s (move .atY .x s)

/-- `ST [X], Y` (R163). -/
def execStAtXY (s : State) : Host.Outcome State Fault Refusal :=
  complete .stAtXY s (move .atX .y s)

/-- `LD X, SP` (R164). -/
def execLdXSP (s : State) : Host.Outcome State Fault Refusal :=
  complete .ldXSP s (move .x .sp s)

end Sys2Proof.Machine
end

