-- ==== Sys2Proof/Machine/Logic.lean ====
section
/-! DEFINITION. The logic family and CLR (44_logic_and_clear.md R230 to R260). -/

namespace Sys2Proof.Machine

/-- `AND X, #imm` (R231). -/
def execAndXImm (imm : Byte) (s : State) : Host.Outcome State Fault Refusal :=
  complete (.andXImm imm) s (binary (total andWide) .x (.imm imm) s)

/-- `AND X, Y` (R232). -/
def execAndXY (s : State) : Host.Outcome State Fault Refusal :=
  complete .andXY s (binary (total andWide) .x .y s)

/-- `AND X, [imm]` (R233). -/
def execAndXAtImm (imm : Byte) (s : State) : Host.Outcome State Fault Refusal :=
  complete (.andXAtImm imm) s (binary (total andWide) .x (.atImm imm) s)

/-- `AND X, [Y]` (R234). -/
def execAndXAtY (s : State) : Host.Outcome State Fault Refusal :=
  complete .andXAtY s (binary (total andWide) .x .atY s)

/-- `AND Y, #imm` (R235). -/
def execAndYImm (imm : Byte) (s : State) : Host.Outcome State Fault Refusal :=
  complete (.andYImm imm) s (binary (total andWide) .y (.imm imm) s)

/-- `AND Y, X` (R236). -/
def execAndYX (s : State) : Host.Outcome State Fault Refusal :=
  complete .andYX s (binary (total andWide) .y .x s)

/-- `AND Y, [imm]` (R237). -/
def execAndYAtImm (imm : Byte) (s : State) : Host.Outcome State Fault Refusal :=
  complete (.andYAtImm imm) s (binary (total andWide) .y (.atImm imm) s)

/-- `AND Y, [X]` (R238). -/
def execAndYAtX (s : State) : Host.Outcome State Fault Refusal :=
  complete .andYAtX s (binary (total andWide) .y .atX s)

/-- `OR X, #imm` (R239). -/
def execOrXImm (imm : Byte) (s : State) : Host.Outcome State Fault Refusal :=
  complete (.orXImm imm) s (binary (total orWide) .x (.imm imm) s)

/-- `OR X, Y` (R240). -/
def execOrXY (s : State) : Host.Outcome State Fault Refusal :=
  complete .orXY s (binary (total orWide) .x .y s)

/-- `OR X, [imm]` (R241). -/
def execOrXAtImm (imm : Byte) (s : State) : Host.Outcome State Fault Refusal :=
  complete (.orXAtImm imm) s (binary (total orWide) .x (.atImm imm) s)

/-- `OR X, [Y]` (R242). -/
def execOrXAtY (s : State) : Host.Outcome State Fault Refusal :=
  complete .orXAtY s (binary (total orWide) .x .atY s)

/-- `OR Y, #imm` (R243). -/
def execOrYImm (imm : Byte) (s : State) : Host.Outcome State Fault Refusal :=
  complete (.orYImm imm) s (binary (total orWide) .y (.imm imm) s)

/-- `OR Y, X` (R244). -/
def execOrYX (s : State) : Host.Outcome State Fault Refusal :=
  complete .orYX s (binary (total orWide) .y .x s)

/-- `OR Y, [imm]` (R245). -/
def execOrYAtImm (imm : Byte) (s : State) : Host.Outcome State Fault Refusal :=
  complete (.orYAtImm imm) s (binary (total orWide) .y (.atImm imm) s)

/-- `OR Y, [X]` (R246). -/
def execOrYAtX (s : State) : Host.Outcome State Fault Refusal :=
  complete .orYAtX s (binary (total orWide) .y .atX s)

/-- `XOR X, #imm` (R247). -/
def execXorXImm (imm : Byte) (s : State) : Host.Outcome State Fault Refusal :=
  complete (.xorXImm imm) s (binary (total xorWide) .x (.imm imm) s)

/-- `XOR X, Y` (R248). -/
def execXorXY (s : State) : Host.Outcome State Fault Refusal :=
  complete .xorXY s (binary (total xorWide) .x .y s)

/-- `XOR X, [imm]` (R249). -/
def execXorXAtImm (imm : Byte) (s : State) : Host.Outcome State Fault Refusal :=
  complete (.xorXAtImm imm) s (binary (total xorWide) .x (.atImm imm) s)

/-- `XOR X, [Y]` (R250). -/
def execXorXAtY (s : State) : Host.Outcome State Fault Refusal :=
  complete .xorXAtY s (binary (total xorWide) .x .atY s)

/-- `XOR Y, #imm` (R251). -/
def execXorYImm (imm : Byte) (s : State) : Host.Outcome State Fault Refusal :=
  complete (.xorYImm imm) s (binary (total xorWide) .y (.imm imm) s)

/-- `XOR Y, X` (R252). -/
def execXorYX (s : State) : Host.Outcome State Fault Refusal :=
  complete .xorYX s (binary (total xorWide) .y .x s)

/-- `XOR Y, [imm]` (R253). -/
def execXorYAtImm (imm : Byte) (s : State) : Host.Outcome State Fault Refusal :=
  complete (.xorYAtImm imm) s (binary (total xorWide) .y (.atImm imm) s)

/-- `XOR Y, [X]` (R254). -/
def execXorYAtX (s : State) : Host.Outcome State Fault Refusal :=
  complete .xorYAtX s (binary (total xorWide) .y .atX s)

/-- `CLR X` (R256). -/
def execClrX (s : State) : Host.Outcome State Fault Refusal :=
  complete .clrX s (update clrWide .x s)

/-- `CLR Y` (R257). -/
def execClrY (s : State) : Host.Outcome State Fault Refusal :=
  complete .clrY s (update clrWide .y s)

/-- `CLR [imm]` (R258). -/
def execClrAtImm (imm : Byte) (s : State) : Host.Outcome State Fault Refusal :=
  complete (.clrAtImm imm) s (update clrWide (.atImm imm) s)

/-- `CLR [X]` (R259). -/
def execClrAtX (s : State) : Host.Outcome State Fault Refusal :=
  complete .clrAtX s (update clrWide .atX s)

/-- `CLR [Y]` (R260). -/
def execClrAtY (s : State) : Host.Outcome State Fault Refusal :=
  complete .clrAtY s (update clrWide .atY s)

end Sys2Proof.Machine
end

