-- ==== Sys2Proof/Machine/Misc.lean ====
section
/-! DEFINITION. The I/O family, NOP, HLT and the unassigned opcodes (49_io_nop_halt.md R355 to R367, 40_engine_cycle.md R136). -/

namespace Sys2Proof.Machine

/-- OUT (R355): the IO latch receives the operand. -/
def latchFrom (src : Src) (s : State) : Except Raise Effect := do
  let v ← val src s
  return fallThrough { s with io := v }

/-- IN (R355): the destination receives the IO latch, whose reading has no side effect (10_state.md R31). -/
def latchTo (d : Dst) (s : State) : Except Raise Effect := do
  let s' ← writeTo d s.io s
  return fallThrough s'

/-- Nothing but the advance of PC. -/
def noop (s : State) : Except Raise Effect := .ok (fallThrough s)

/-- HLT (R367). -/
def halt (s : State) : Except Raise Effect :=
  match s.params.haltBehavior with
  | .terminate => .ok (fallThrough { s with run := .stopped })
  | .spin => .ok (fallThrough (if flagSet .t s.f then s else { s with run := .halted }))

/-- `OUT X` (R356). -/
def execOutX (s : State) : Host.Outcome State Fault Refusal :=
  complete .outX s (latchFrom .x s)

/-- `OUT Y` (R357). -/
def execOutY (s : State) : Host.Outcome State Fault Refusal :=
  complete .outY s (latchFrom .y s)

/-- `OUT [imm]` (R358). -/
def execOutAtImm (imm : Byte) (s : State) : Host.Outcome State Fault Refusal :=
  complete (.outAtImm imm) s (latchFrom (.atImm imm) s)

/-- `OUT [X]` (R359). -/
def execOutAtX (s : State) : Host.Outcome State Fault Refusal :=
  complete .outAtX s (latchFrom .atX s)

/-- `OUT [Y]` (R360). -/
def execOutAtY (s : State) : Host.Outcome State Fault Refusal :=
  complete .outAtY s (latchFrom .atY s)

/-- `IN X` (R361). -/
def execInX (s : State) : Host.Outcome State Fault Refusal :=
  complete .inX s (latchTo .x s)

/-- `IN Y` (R362). -/
def execInY (s : State) : Host.Outcome State Fault Refusal :=
  complete .inY s (latchTo .y s)

/-- `IN [imm]` (R363). -/
def execInAtImm (imm : Byte) (s : State) : Host.Outcome State Fault Refusal :=
  complete (.inAtImm imm) s (latchTo (.atImm imm) s)

/-- `IN [X]` (R364). -/
def execInAtX (s : State) : Host.Outcome State Fault Refusal :=
  complete .inAtX s (latchTo .atX s)

/-- `IN [Y]` (R365). -/
def execInAtY (s : State) : Host.Outcome State Fault Refusal :=
  complete .inAtY s (latchTo .atY s)

/-- `NOP` (R366). -/
def execNop (s : State) : Host.Outcome State Fault Refusal :=
  complete .nop s (noop s)

/-- `HLT` (R367). -/
def execHlt (s : State) : Host.Outcome State Fault Refusal :=
  complete .hlt s (halt s)

/-- UnimplementedOpcode (40_engine_cycle.md R136, 60_exceptions.md R382): a no-op of width 1. The event it reports is
`reportedEvent`. -/
def execUnimplemented (op : Byte) (s : State) : Host.Outcome State Fault Refusal :=
  complete (.unimplemented op) s (noop s)

end Sys2Proof.Machine
end

