-- ==== Sys2Proof/Machine/Stack.lean ====
section
/-! DEFINITION. The stack family (48_stack.md R340 to R350). -/

namespace Sys2Proof.Machine

/-- PUSH (R340): the operand is read, then pushed. -/
def pushFrom (src : Src) (s : State) : Except Raise Effect := do
  let v ← val src s
  let s' ← push v s
  return fallThrough s'

/-- POP (R340): the byte is popped, then written to the destination, whose address register is read then (R350). -/
def popTo (d : Dst) (s : State) : Except Raise Effect := do
  let r ← pop s
  let s' ← writeTo d r.1 r.2
  return fallThrough s'

/-- `PUSH #imm` (R341). -/
def execPushImm (imm : Byte) (s : State) : Host.Outcome State Fault Refusal :=
  complete (.pushImm imm) s (pushFrom (.imm imm) s)

/-- `PUSH [imm]` (R342). -/
def execPushAtImm (imm : Byte) (s : State) : Host.Outcome State Fault Refusal :=
  complete (.pushAtImm imm) s (pushFrom (.atImm imm) s)

/-- `PUSH [X]` (R343). -/
def execPushAtX (s : State) : Host.Outcome State Fault Refusal :=
  complete .pushAtX s (pushFrom .atX s)

/-- `PUSH [Y]` (R344). -/
def execPushAtY (s : State) : Host.Outcome State Fault Refusal :=
  complete .pushAtY s (pushFrom .atY s)

/-- `PUSH X` (R345). -/
def execPushX (s : State) : Host.Outcome State Fault Refusal :=
  complete .pushX s (pushFrom .x s)

/-- `PUSH Y` (R346). -/
def execPushY (s : State) : Host.Outcome State Fault Refusal :=
  complete .pushY s (pushFrom .y s)

/-- `POP [imm]` (R347). -/
def execPopAtImm (imm : Byte) (s : State) : Host.Outcome State Fault Refusal :=
  complete (.popAtImm imm) s (popTo (.atImm imm) s)

/-- `POP X` (R348). -/
def execPopX (s : State) : Host.Outcome State Fault Refusal :=
  complete .popX s (popTo .x s)

/-- `POP Y` (R349). -/
def execPopY (s : State) : Host.Outcome State Fault Refusal :=
  complete .popY s (popTo .y s)

/-- `POP [X]` (R350). -/
def execPopAtX (s : State) : Host.Outcome State Fault Refusal :=
  complete .popAtX s (popTo .atX s)

end Sys2Proof.Machine
end

