-- ==== Sys2Proof/Machine/Dispatch.lean ====
section
/-! DEFINITION. The dispatch of an instruction to its meaning, one arm for each constructor. -/

namespace Sys2Proof.Machine

/-- The execute stage and the end of the cycle of one instruction (40_engine_cycle.md R121), from the state before it. -/
def exec (i : Instr) (s : State) : Host.Outcome State Fault Refusal :=
  match i with
  | .ldXImm imm => Sys2Proof.Machine.execLdXImm imm s
  | .ldXY => Sys2Proof.Machine.execLdXY s
  | .ldXAtImm imm => Sys2Proof.Machine.execLdXAtImm imm s
  | .ldXAtY => Sys2Proof.Machine.execLdXAtY s
  | .ldYImm imm => Sys2Proof.Machine.execLdYImm imm s
  | .ldYX => Sys2Proof.Machine.execLdYX s
  | .ldYAtImm imm => Sys2Proof.Machine.execLdYAtImm imm s
  | .ldYAtX => Sys2Proof.Machine.execLdYAtX s
  | .ldSPImm imm => Sys2Proof.Machine.execLdSPImm imm s
  | .stAtImmX imm => Sys2Proof.Machine.execStAtImmX imm s
  | .stAtImmY imm => Sys2Proof.Machine.execStAtImmY imm s
  | .stAtYX => Sys2Proof.Machine.execStAtYX s
  | .stAtXY => Sys2Proof.Machine.execStAtXY s
  | .ldXSP => Sys2Proof.Machine.execLdXSP s
  | .addXImm imm => Sys2Proof.Machine.execAddXImm imm s
  | .addXY => Sys2Proof.Machine.execAddXY s
  | .addXAtImm imm => Sys2Proof.Machine.execAddXAtImm imm s
  | .addXAtY => Sys2Proof.Machine.execAddXAtY s
  | .addYImm imm => Sys2Proof.Machine.execAddYImm imm s
  | .addYX => Sys2Proof.Machine.execAddYX s
  | .addYAtImm imm => Sys2Proof.Machine.execAddYAtImm imm s
  | .addYAtX => Sys2Proof.Machine.execAddYAtX s
  | .subXImm imm => Sys2Proof.Machine.execSubXImm imm s
  | .subXY => Sys2Proof.Machine.execSubXY s
  | .subXAtImm imm => Sys2Proof.Machine.execSubXAtImm imm s
  | .subXAtY => Sys2Proof.Machine.execSubXAtY s
  | .subYImm imm => Sys2Proof.Machine.execSubYImm imm s
  | .subYX => Sys2Proof.Machine.execSubYX s
  | .subYAtImm imm => Sys2Proof.Machine.execSubYAtImm imm s
  | .subYAtX => Sys2Proof.Machine.execSubYAtX s
  | .mulXImm imm => Sys2Proof.Machine.execMulXImm imm s
  | .mulXY => Sys2Proof.Machine.execMulXY s
  | .mulXAtImm imm => Sys2Proof.Machine.execMulXAtImm imm s
  | .mulXAtY => Sys2Proof.Machine.execMulXAtY s
  | .mulYImm imm => Sys2Proof.Machine.execMulYImm imm s
  | .mulYX => Sys2Proof.Machine.execMulYX s
  | .mulYAtImm imm => Sys2Proof.Machine.execMulYAtImm imm s
  | .mulYAtX => Sys2Proof.Machine.execMulYAtX s
  | .divXImm imm => Sys2Proof.Machine.execDivXImm imm s
  | .divXY => Sys2Proof.Machine.execDivXY s
  | .divXAtImm imm => Sys2Proof.Machine.execDivXAtImm imm s
  | .divXAtY => Sys2Proof.Machine.execDivXAtY s
  | .divYImm imm => Sys2Proof.Machine.execDivYImm imm s
  | .divYX => Sys2Proof.Machine.execDivYX s
  | .divYAtImm imm => Sys2Proof.Machine.execDivYAtImm imm s
  | .divYAtX => Sys2Proof.Machine.execDivYAtX s
  | .incX => Sys2Proof.Machine.execIncX s
  | .incY => Sys2Proof.Machine.execIncY s
  | .incAtImm imm => Sys2Proof.Machine.execIncAtImm imm s
  | .incAtX => Sys2Proof.Machine.execIncAtX s
  | .incAtY => Sys2Proof.Machine.execIncAtY s
  | .decX => Sys2Proof.Machine.execDecX s
  | .decY => Sys2Proof.Machine.execDecY s
  | .decAtImm imm => Sys2Proof.Machine.execDecAtImm imm s
  | .decAtX => Sys2Proof.Machine.execDecAtX s
  | .decAtY => Sys2Proof.Machine.execDecAtY s
  | .andXImm imm => Sys2Proof.Machine.execAndXImm imm s
  | .andXY => Sys2Proof.Machine.execAndXY s
  | .andXAtImm imm => Sys2Proof.Machine.execAndXAtImm imm s
  | .andXAtY => Sys2Proof.Machine.execAndXAtY s
  | .andYImm imm => Sys2Proof.Machine.execAndYImm imm s
  | .andYX => Sys2Proof.Machine.execAndYX s
  | .andYAtImm imm => Sys2Proof.Machine.execAndYAtImm imm s
  | .andYAtX => Sys2Proof.Machine.execAndYAtX s
  | .orXImm imm => Sys2Proof.Machine.execOrXImm imm s
  | .orXY => Sys2Proof.Machine.execOrXY s
  | .orXAtImm imm => Sys2Proof.Machine.execOrXAtImm imm s
  | .orXAtY => Sys2Proof.Machine.execOrXAtY s
  | .orYImm imm => Sys2Proof.Machine.execOrYImm imm s
  | .orYX => Sys2Proof.Machine.execOrYX s
  | .orYAtImm imm => Sys2Proof.Machine.execOrYAtImm imm s
  | .orYAtX => Sys2Proof.Machine.execOrYAtX s
  | .xorXImm imm => Sys2Proof.Machine.execXorXImm imm s
  | .xorXY => Sys2Proof.Machine.execXorXY s
  | .xorXAtImm imm => Sys2Proof.Machine.execXorXAtImm imm s
  | .xorXAtY => Sys2Proof.Machine.execXorXAtY s
  | .xorYImm imm => Sys2Proof.Machine.execXorYImm imm s
  | .xorYX => Sys2Proof.Machine.execXorYX s
  | .xorYAtImm imm => Sys2Proof.Machine.execXorYAtImm imm s
  | .xorYAtX => Sys2Proof.Machine.execXorYAtX s
  | .clrX => Sys2Proof.Machine.execClrX s
  | .clrY => Sys2Proof.Machine.execClrY s
  | .clrAtImm imm => Sys2Proof.Machine.execClrAtImm imm s
  | .clrAtX => Sys2Proof.Machine.execClrAtX s
  | .clrAtY => Sys2Proof.Machine.execClrAtY s
  | .callImm imm => Sys2Proof.Machine.execCallImm imm s
  | .callX => Sys2Proof.Machine.execCallX s
  | .callY => Sys2Proof.Machine.execCallY s
  | .ret => Sys2Proof.Machine.execRet s
  | .jmpImm imm => Sys2Proof.Machine.execJmpImm imm s
  | .jmpX => Sys2Proof.Machine.execJmpX s
  | .jmpY => Sys2Proof.Machine.execJmpY s
  | .joImm imm => Sys2Proof.Machine.execJoImm imm s
  | .joX => Sys2Proof.Machine.execJoX s
  | .joY => Sys2Proof.Machine.execJoY s
  | .jnoImm imm => Sys2Proof.Machine.execJnoImm imm s
  | .jnoX => Sys2Proof.Machine.execJnoX s
  | .jnoY => Sys2Proof.Machine.execJnoY s
  | .jzImm imm => Sys2Proof.Machine.execJzImm imm s
  | .jzX => Sys2Proof.Machine.execJzX s
  | .jzY => Sys2Proof.Machine.execJzY s
  | .jnzImm imm => Sys2Proof.Machine.execJnzImm imm s
  | .jnzX => Sys2Proof.Machine.execJnzX s
  | .jnzY => Sys2Proof.Machine.execJnzY s
  | .jtImm imm => Sys2Proof.Machine.execJtImm imm s
  | .jtX => Sys2Proof.Machine.execJtX s
  | .jtY => Sys2Proof.Machine.execJtY s
  | .jntImm imm => Sys2Proof.Machine.execJntImm imm s
  | .jntX => Sys2Proof.Machine.execJntX s
  | .jntY => Sys2Proof.Machine.execJntY s
  | .jcImm imm => Sys2Proof.Machine.execJcImm imm s
  | .jcX => Sys2Proof.Machine.execJcX s
  | .jcY => Sys2Proof.Machine.execJcY s
  | .jncImm imm => Sys2Proof.Machine.execJncImm imm s
  | .jncX => Sys2Proof.Machine.execJncX s
  | .jncY => Sys2Proof.Machine.execJncY s
  | .brImm imm => Sys2Proof.Machine.execBrImm imm s
  | .brX => Sys2Proof.Machine.execBrX s
  | .brY => Sys2Proof.Machine.execBrY s
  | .boImm imm => Sys2Proof.Machine.execBoImm imm s
  | .boX => Sys2Proof.Machine.execBoX s
  | .boY => Sys2Proof.Machine.execBoY s
  | .bnoImm imm => Sys2Proof.Machine.execBnoImm imm s
  | .bnoX => Sys2Proof.Machine.execBnoX s
  | .bnoY => Sys2Proof.Machine.execBnoY s
  | .bzImm imm => Sys2Proof.Machine.execBzImm imm s
  | .bzX => Sys2Proof.Machine.execBzX s
  | .bzY => Sys2Proof.Machine.execBzY s
  | .bnzImm imm => Sys2Proof.Machine.execBnzImm imm s
  | .bnzX => Sys2Proof.Machine.execBnzX s
  | .bnzY => Sys2Proof.Machine.execBnzY s
  | .btImm imm => Sys2Proof.Machine.execBtImm imm s
  | .btX => Sys2Proof.Machine.execBtX s
  | .btY => Sys2Proof.Machine.execBtY s
  | .bntImm imm => Sys2Proof.Machine.execBntImm imm s
  | .bntX => Sys2Proof.Machine.execBntX s
  | .bntY => Sys2Proof.Machine.execBntY s
  | .bcImm imm => Sys2Proof.Machine.execBcImm imm s
  | .bcX => Sys2Proof.Machine.execBcX s
  | .bcY => Sys2Proof.Machine.execBcY s
  | .bncImm imm => Sys2Proof.Machine.execBncImm imm s
  | .bncX => Sys2Proof.Machine.execBncX s
  | .bncY => Sys2Proof.Machine.execBncY s
  | .pushImm imm => Sys2Proof.Machine.execPushImm imm s
  | .pushAtImm imm => Sys2Proof.Machine.execPushAtImm imm s
  | .pushAtX => Sys2Proof.Machine.execPushAtX s
  | .pushAtY => Sys2Proof.Machine.execPushAtY s
  | .pushX => Sys2Proof.Machine.execPushX s
  | .pushY => Sys2Proof.Machine.execPushY s
  | .popAtImm imm => Sys2Proof.Machine.execPopAtImm imm s
  | .popX => Sys2Proof.Machine.execPopX s
  | .popY => Sys2Proof.Machine.execPopY s
  | .popAtX => Sys2Proof.Machine.execPopAtX s
  | .outX => Sys2Proof.Machine.execOutX s
  | .outY => Sys2Proof.Machine.execOutY s
  | .outAtImm imm => Sys2Proof.Machine.execOutAtImm imm s
  | .outAtX => Sys2Proof.Machine.execOutAtX s
  | .outAtY => Sys2Proof.Machine.execOutAtY s
  | .inX => Sys2Proof.Machine.execInX s
  | .inY => Sys2Proof.Machine.execInY s
  | .inAtImm imm => Sys2Proof.Machine.execInAtImm imm s
  | .inAtX => Sys2Proof.Machine.execInAtX s
  | .inAtY => Sys2Proof.Machine.execInAtY s
  | .nop => Sys2Proof.Machine.execNop s
  | .hlt => Sys2Proof.Machine.execHlt s
  | .unimplemented op => Sys2Proof.Machine.execUnimplemented op s

end Sys2Proof.Machine
end

