-- ==== Sys2Proof/Machine/Step.lean ====
section
/-! DEFINITION. One step of the engine (40_engine_cycle.md R121, R139, R140), and the placing of an instruction where the
next step fetches. -/

namespace Sys2Proof.Machine

/-- One step: a cycle in Running (R121), a poll in Halted (R139), none in Stopped and Faulted (R140). A fault of the fetch
is a next state, in run state Faulted (R123, R137). -/
def step (s : State) : Host.Outcome State Fault Refusal :=
  match s.run with
  | .running =>
    match fetch s with
    | .error e => .next (raiseFault e.1 e.2 s)
    | .ok w => exec (decodeWord s.params.opcodeMap w.1 w.2) s
  | .halted => .next (pollTrap s)
  | .stopped => .fault .runStopped
  | .faulted r => .fault (.runFaulted r)

/-- `s` with the instruction of the bits `w` at PC, so that the next step fetches and runs it: its two bytes are stored at
PC and PC + 1, and the run state is Running, which a fetch needs (log 11). The bits are those of R104, so the instruction
is R104's where OPCODE_MAP is the default. Where PC or PC + 1 is outside memory no
instruction can be fetched at all (R123). -/
def State.withFetchWord (s : State) (nbits w : Nat) : State :=
  placeWord (tableByte nbits w 0) (tableByte nbits w 1) s

end Sys2Proof.Machine
end

