-- ==== Sys2Proof/Machine/HostActions.lean ====
section
/-! DEFINITION. What the host can do to the machine: construct it (70_reset_and_hazards.md R410 to R413) and act on it
between two cycles (60_exceptions.md R391). -/

namespace Sys2Proof.Machine

/-- Construction, the only reset (R410), with parameters and a BOOT_IMAGE: every register zero, Running, memory the image
and then the fill byte (R411 to R413). An empty or too long image is refused (92_eei_decisions.md D37), and so is a list that
is no OPCODE_MAP (30_encoding.md R94, log 2). -/
def construct (p : Params) (image : List Byte) : Host.Outcome State Fault Refusal :=
  if legalMap p.opcodeMap = false then .refused .badOpcodeMap
  else if image = [] ∨ memSize p < image.length then .refused .badBootImage
  else .next { State.reset with mem := imageMemory (memSize p) image, params := p }

/-- The host's actions, each taken between two cycles (R391). No other is offered (93_implementation_defined.md U18). -/
inductive HostAction where
  /-- `SetTrap`: F.T <- 1. -/
  | setTrap
  /-- `WriteIO(v)`: IO <- v. -/
  | writeIO (v : Byte)
  /-- Reading any state. -/
  | observe
  /-- Stopping the pacing or ending the process: the run is cut off, nothing in the core changes. -/
  | cutOff
deriving DecidableEq, Repr

/-- The effect of a host action (R391). -/
def hostAct : HostAction → State → State
  | .setTrap, s => { s with f := withTrap s.f }
  | .writeIO v, s => { s with io := v }
  | .observe, s => s
  | .cutOff, s => s

/-- The code of a kind of fatal fault (60_exceptions.md R381). -/
def faultKindCode : FaultKind → Nat
  | .memoryFault => 2
  | .arithmeticFault => 3

/-- The fault code of a run state, 0 where there is no fault (R381). -/
def faultCode : RunState → Nat
  | .faulted r => faultKindCode r.kind
  | _ => 0

end Sys2Proof.Machine
end

