-- ==== Sys2Proof/Machine/Report.lean ====
section
/-! DEFINITION. What a cycle reports to the host beside the next state: the UnimplementedOpcode event (60_exceptions.md R382)
and the trace event (40_engine_cycle.md R138). Neither is state, and no rule reads them (log 9). -/

namespace Sys2Proof.Machine

/-- The event of an unassigned opcode: the opcode and PC (R382). Its code is 1 (60_exceptions.md R381). -/
structure UnimplementedEvent where
  opcode : Byte
  pc : Byte
deriving DecidableEq, Repr

/-- The code of the UnimplementedOpcode event (R381). -/
def unimplementedCode : Nat := 1

/-- The instruction a cycle begun in `s` executes, with the two fetched bytes; none where no cycle executes one. -/
def fetched (s : State) : Option (Byte × Byte × Instr) :=
  match s.run, fetch s with
  | .running, .ok w => some (w.1, w.2, decodeWord s.params.opcodeMap w.1 w.2)
  | _, _ => none

/-- The event the cycle begun in `s` reports, if any (R136, R382). NOP reports none (49_io_nop_halt.md R366). -/
def reportedEvent (s : State) : Option UnimplementedEvent :=
  match fetched s with
  | some (op, _, .unimplemented _) => some ⟨op, s.pc⟩
  | _ => none

/-- A trace event: the opcode, the immediate, and the registers and flags after the cycle (R138). -/
structure TraceEvent where
  opcode : Byte
  immediate : Byte
  x : Byte
  y : Byte
  io : Byte
  sp : Byte
  pc : Byte
  f : Byte
deriving DecidableEq, Repr

/-- The trace event after the cycle begun in `s`: one where tracing is on and an instruction completed. DESIGN CHOICE
(log 9), unsafe only for claims about tracing: a poll and a cycle that raised emit none. -/
def traceEvent (s : State) : Option TraceEvent :=
  if s.params.tracingEnabled then
    match fetched s, step s with
    | some (op, imm, _), .next t => if faultCode t.run = 0 then some ⟨op, imm, t.x, t.y, t.io, t.sp, t.pc, t.f⟩ else none
    | _, _ => none
  else none

end Sys2Proof.Machine
end

