-- ==== Sys2Proof/Safety.lean ====
section
/-! DEFINITION. The terms claims about runs use: the invariant of the machine, the moves of a run, and the classes of
instructions the spec's whole-machine rules speak of. -/

namespace Sys2Proof.Machine

/-- Bits 3 to 6 of a Flags byte are 0 (10_state.md R35), and C = 1 only with O = 1 (40_engine_cycle.md R128). -/
abbrev FlagsLegal (f : Byte) : Prop := f &&& 0x78#8 = 0#8 ∧ (flagSet .c f = true → flagSet .o f = true)

/-- Every listed cell is a cell of memory (20_memory.md R60). -/
abbrev MemoryInRange (s : State) : Prop := s.mem.all (fun c => decide (c.1 < memSize s.params)) = true

/-- What each run state says of the rest (10_state.md R38, 60_exceptions.md R383 to R386): Halted is only under spin,
Stopped only under terminate; a fault record holds the PC of the machine, a memory fault an address outside memory, an
arithmetic fault the divisor 0. -/
def runConsistent (s : State) : Bool :=
  match s.run with
  | .running => true
  | .halted => decide (s.params.haltBehavior = .spin)
  | .stopped => decide (s.params.haltBehavior = .terminate)
  | .faulted r =>
    decide (r.pc = s.pc) &&
      match r.kind with
      | .memoryFault => decide (memSize s.params ≤ r.addrOrOperand)
      | .arithmeticFault => decide (r.addrOrOperand = 0)

/-- The invariant of the machine. -/
abbrev Inv (s : State) : Prop :=
  legalMap s.params.opcodeMap = true ∧ Memory.wf s.mem = true ∧ MemoryInRange s ∧ FlagsLegal s.f ∧ runConsistent s = true

/-- One move of a run: a step of the engine, or a host action between two steps (40_engine_cycle.md R141). -/
inductive Move : State → State → Prop where
  | step {s t : State} (h : step s = .next t) : Move s t
  | host (a : HostAction) (s : State) : Move s (hostAct a s)

/-- The states a run can pass through from `s`. -/
inductive Reaches (s : State) : State → Prop where
  | refl : Reaches s s
  | tail {t u : State} (h : Reaches s t) (m : Move t u) : Reaches s u

/-- The run is over (60_exceptions.md R399). -/
abbrev RunOver (s : State) : Prop := s.run ≠ .running ∧ s.run ≠ .halted

/-- The instruction has a cell of R104 in a range of opcodes. UnimplementedOpcode has none. -/
def opcodeIn (lo hi : Nat) (i : Instr) : Bool :=
  match i with
  | .unimplemented _ => false
  | i => decide (lo ≤ (opcodeOf i).toNat) && decide ((opcodeOf i).toNat ≤ hi)

/-- The families that can apply the flag-update policy (40_engine_cycle.md R129, by the ranges of 30_encoding.md R93): the
arithmetic, increment, logic and clear families, and the relative branches. -/
def flagProducing (i : Instr) : Bool :=
  opcodeIn 0x10 0x47 i || opcodeIn 0x50 0x59 i || opcodeIn 0x60 0x8c i || opcodeIn 0xbb 0xd5 i

/-- The families that can assign PC (40_engine_cycle.md R135, R93): calls and returns, jumps, relative branches. -/
def canAssignPc (i : Instr) : Bool := opcodeIn 0x90 0x93 i || opcodeIn 0xa0 0xd5 i

/-- The instructions that write IO: OUT (10_state.md R42). -/
def writesIo (i : Instr) : Bool := opcodeIn 0xf0 0xf4 i

/-- The instructions that write SP: LD SP, CALL, RET, PUSH, POP (R42). -/
def writesSp (i : Instr) : Bool := opcodeIn 0x08 0x08 i || opcodeIn 0x90 0x93 i || opcodeIn 0xe0 0xe9 i

/-- The binary operations into the register of the low nibbles `n` to `n + 3` (30_encoding.md R95). -/
def binaryInto (n : Nat) (i : Instr) : Bool :=
  [0x10, 0x20, 0x30, 0x40, 0x60, 0x70, 0x80].any fun base => opcodeIn (base + n) (base + n + 3) i

/-- The instructions that write X: loads into X, binary operations into X, INC, DEC, CLR, POP and IN of X (R42). -/
def writesX (i : Instr) : Bool :=
  opcodeIn 0x00 0x03 i || opcodeIn 0x0d 0x0d i || binaryInto 0 i ||
    [0x50, 0x55, 0x88, 0xe7, 0xf5].any fun op => opcodeIn op op i

/-- The instructions that write Y: loads into Y, binary operations into Y, INC, DEC, CLR, POP and IN of Y (R42). -/
def writesY (i : Instr) : Bool :=
  opcodeIn 0x04 0x07 i || binaryInto 4 i || [0x51, 0x56, 0x89, 0xe8, 0xf6].any fun op => opcodeIn op op i

/-- The address an instruction stores to, if it stores: ST, INC, DEC, CLR, POP and IN of a cell, CALL and PUSH. -/
def storeAddress (i : Instr) (s : State) : Option Byte :=
  match i with
  | .stAtImmX a | .stAtImmY a | .incAtImm a | .decAtImm a | .clrAtImm a | .popAtImm a | .inAtImm a => some a
  | .stAtXY | .incAtX | .decAtX | .clrAtX | .popAtX | .inAtX => some s.x
  | .stAtYX | .incAtY | .decAtY | .clrAtY | .inAtY => some s.y
  | .callImm _ | .callX | .callY | .pushImm _ | .pushAtImm _ | .pushAtX | .pushAtY | .pushX | .pushY => some s.sp
  | _ => none

/-- The addresses the execute stage of an instruction accesses, in the order of its pseudocode (40_engine_cycle.md R127). A
cell read and then written is listed once. -/
def accesses (i : Instr) (s : State) : List Byte :=
  match i with
  | .ldXAtImm a | .ldYAtImm a | .stAtImmX a | .stAtImmY a | .addXAtImm a | .addYAtImm a | .subXAtImm a | .subYAtImm a
  | .mulXAtImm a | .mulYAtImm a | .divXAtImm a | .divYAtImm a | .incAtImm a | .decAtImm a | .andXAtImm a
  | .andYAtImm a | .orXAtImm a | .orYAtImm a | .xorXAtImm a | .xorYAtImm a | .clrAtImm a | .outAtImm a
  | .inAtImm a => [a]
  | .ldYAtX | .stAtXY | .addYAtX | .subYAtX | .mulYAtX | .divYAtX | .incAtX | .decAtX | .andYAtX | .orYAtX | .xorYAtX
  | .clrAtX | .outAtX | .inAtX => [s.x]
  | .ldXAtY | .stAtYX | .addXAtY | .subXAtY | .mulXAtY | .divXAtY | .incAtY | .decAtY | .andXAtY | .orXAtY | .xorXAtY
  | .clrAtY | .outAtY | .inAtY => [s.y]
  | .callImm _ | .callX | .callY | .pushImm _ | .pushX | .pushY => [s.sp]
  | .pushAtImm a => [a, s.sp]
  | .pushAtX => [s.x, s.sp]
  | .pushAtY => [s.y, s.sp]
  | .ret | .popX | .popY => [s.sp - 1#8]
  | .popAtImm a => [s.sp - 1#8, a]
  | .popAtX => [s.sp - 1#8, s.x]
  | _ => []

/-- The divisor of a DIV (42_arithmetic.md R171). -/
def divisor (i : Instr) (s : State) : Option Byte :=
  match i with
  | .divXImm v | .divYImm v => some v
  | .divXY => some s.y
  | .divYX => some s.x
  | .divXAtImm a | .divYAtImm a => some (readCell s.mem a.toNat)
  | .divXAtY => some (readCell s.mem s.y.toNat)
  | .divYAtX => some (readCell s.mem s.x.toNat)
  | _ => none

end Sys2Proof.Machine
end

