-- ==== Sys2Proof/Certificates/Slice0/Obligations.lean ====
section
/-! DEFINITION. The statements for the provers. Each docstring names the rule or the decision D<n> of 92_eei_decisions.md it
rests on. A statement about one instruction speaks of `exec`; `StepRunsDecodedInstruction` carries it to `step`. -/

namespace Sys2Proof.Claims

open Sys2Proof.Machine

/-- F after the flag-update policy, for a 16-bit result of the numeric value `n`: O, Z and C from `n`, bits 3 to 7 as
they
were (40_engine_cycle.md, section 4). -/
def FlagsFrom (n : Nat) (f f' : Byte) : Prop :=
  f'.getLsbD 0 = decide (n / 256 ≠ 0) ∧ f'.getLsbD 1 = decide (n % 256 = 0) ∧ f'.getLsbD 2 = n.testBit 8 ∧
    ∀ k, 3 ≤ k → f'.getLsbD k = f.getLsbD k

/-- `i` completes in `s`: X receives the low byte of `n`, the flags follow `n`, PC advances by `w`, nothing else
changes. -/
def ResultInX (i : Instr) (n w : Nat) (s : State) : Prop :=
  ∃ t, exec i s = .next t ∧ t = { s with x := BitVec.ofNat 8 n, f := t.f, pc := s.pc + BitVec.ofNat 8 w } ∧
    FlagsFrom n s.f t.f

/-- `i` completes in `s`: Y receives the low byte of `n`, the flags follow `n`, PC advances by `w`, nothing else
changes. -/
def ResultInY (i : Instr) (n w : Nat) (s : State) : Prop :=
  ∃ t, exec i s = .next t ∧ t = { s with y := BitVec.ofNat 8 n, f := t.f, pc := s.pc + BitVec.ofNat 8 w } ∧
    FlagsFrom n s.f t.f

/-- `i` completes in `s`: the cell at `a` receives the low byte of `n`, the flags follow `n`, PC advances by `w`;
every other
cell and register stays. -/
def ResultInCell (i : Instr) (a : Byte) (n w : Nat) (s : State) : Prop :=
  ∃ t, exec i s = .next t ∧ t = { s with mem := t.mem, f := t.f, pc := s.pc + BitVec.ofNat 8 w } ∧
    readCell t.mem a.toNat = BitVec.ofNat 8 n ∧ (∀ b, b ≠ a.toNat → readCell t.mem b = readCell s.mem b) ∧
    FlagsFrom n s.f t.f

/-- `i` completes in `s` as `r` (the registers it leaves) with `v` stored at `a` and every other cell as in `s`. -/
def StoresAt (i : Instr) (a v : Byte) (r s : State) : Prop :=
  ∃ t, exec i s = .next t ∧ t = { r with mem := t.mem } ∧ readCell t.mem a.toNat = v ∧
    ∀ b, b ≠ a.toNat → readCell t.mem b = readCell s.mem b

/-- `i` completes in `s`: PC becomes `target` where the whole F is not zero and its bit `k` is `b`, and advances by `w`
otherwise; nothing else changes. -/
def JumpsIf (i : Instr) (k : Nat) (b : Bool) (target : Byte) (w : Nat) (s : State) : Prop :=
  exec i s =
    .next (if s.f ≠ 0#8 ∧ s.f.getLsbD k = b then { s with pc := target } else { s with pc := s.pc + BitVec.ofNat 8 w })

/-- The sum of a relative branch at address `pc` with the signed offset byte `v`, reduced modulo 2^16. -/
def branchSum (pc v : Byte) : Nat := (((pc.toNat : Int) + v.toInt) % 65536).toNat

/-- `i` completes in `s`: PC becomes the low byte of the branch sum and the flags follow the sum; nothing else
changes. -/
def Branches (i : Instr) (v : Byte) (s : State) : Prop :=
  ∃ t, exec i s = .next t ∧ t = { s with pc := BitVec.ofNat 8 (branchSum s.pc v), f := t.f } ∧
    FlagsFrom (branchSum s.pc v) s.f t.f

/-- `i` completes in `s`: as `Branches` where the whole F is not zero and its bit `k` is `b`; otherwise PC advances
by `w` and
nothing else changes, F included. -/
def BranchesIf (i : Instr) (k : Nat) (b : Bool) (v : Byte) (w : Nat) (s : State) : Prop :=
  if s.f ≠ 0#8 ∧ s.f.getLsbD k = b then Branches i v s else exec i s = .next { s with pc := s.pc + BitVec.ofNat 8 w }

/-- `i` completes in `s` with PC the target `PC + v` modulo 256, and, of the flags: O and C set where the target is
outside
0 to 255; O and C clear, and Z set exactly at target 0, where it is not. -/
def BranchesByTarget (i : Instr) (v : Byte) (s : State) : Prop :=
  let target : Int := s.pc.toNat + v.toInt
  ∃ t, exec i s = .next t ∧ t.pc.toNat = (target % 256).toNat ∧
    (target < 0 ∨ 255 < target → t.f.getLsbD 0 = true ∧ t.f.getLsbD 2 = true) ∧
    (0 ≤ target ∧ target ≤ 255 →
      t.f.getLsbD 0 = false ∧ t.f.getLsbD 2 = false ∧ (t.f.getLsbD 1 = true ↔ target = 0))

/-- The OPCODE_MAP of the run has HLT at the byte at PC, which is 0xff where the map is legal; the latter is the model's
deduction that a map keeps the family ranges (log 2). -/
def HltAtPc (s : State) : Prop :=
  decodeWord s.params.opcodeMap (readCell s.mem s.pc.toNat) 0#8 = .hlt ∧
    (legalMap s.params.opcodeMap = true → readCell s.mem s.pc.toNat = 0xff#8)

/-- `a - b` of two bytes as an exact difference reduced modulo 2^16. -/
def difference (a b : Nat) : Nat := (a + 65536 - b) % 65536

/-- `s` with other values of the two parameters that have no effect on any state. -/
def retime (tracing : Bool) (hz : Nat) (s : State) : State :=
  { s with params := { s.params with tracingEnabled := tracing, cycleFrequencyHz := hz } }

end Sys2Proof.Claims

open Sys2Proof Sys2Proof.Machine Sys2Proof.Claims

/-! ### Encoding -/

/-- No bit of an encoding is dropped. The default map is the spec's decision D3. That `encodeWith` takes the lowest
opcode is
the model's choice (log 2). -/
def Obligations.DecodeEncodeAgree : Prop :=
  (∀ i : Instr, wellFormed i = true →
    (∀ rest, decode defaultOpcodeMap (encode i ++ rest) = .ok (i, rest)) ∧
    (∀ next, decodeWord defaultOpcodeMap (opcodeOf i) ((encode i ++ [next]).getD 1 0#8) = i) ∧
    encodeWith defaultOpcodeMap i = some (encode i)) ∧
  ∀ (m : OpcodeMap) (i : Instr),
    (∀ bytes rest, encodeWith m i = some bytes → decode m (bytes ++ rest) = .ok (i, rest)) ∧
    (encodeWith m i = none ↔ ∀ op imm, decodeWord m op imm ≠ i)

/-- The other direction: each word has one meaning. The default map is the spec's decision D3. -/
def Obligations.EncodeDecodeAgree : Prop :=
  (∀ op imm : Byte, wellFormed (decodeWord defaultOpcodeMap op imm) = true ∧
    opcodeOf (decodeWord defaultOpcodeMap op imm) = op ∧
    widthOf (decodeWord defaultOpcodeMap op imm) = widthOfOpcode defaultOpcodeMap op ∧
    encode (decodeWord defaultOpcodeMap op imm) =
      if widthOfOpcode defaultOpcodeMap op = 1 then [op] else [op, imm]) ∧
  (∀ bytes i rest, decode defaultOpcodeMap bytes = .ok (i, rest) → encode i ++ rest = bytes) ∧
  ∀ (m : OpcodeMap) (bytes : List Byte) (i : Instr) (rest : List Byte), decode m bytes = .ok (i, rest) →
    ∃ op, bytes = op :: ((encode i).tail ++ rest) ∧ ∃ imm, decodeWord m op imm = i

/-- 30_encoding.md R94. The premise that the list is an OPCODE_MAP is `legalMap` (log 2). -/
def Obligations.SourceFixedOpcodes : Prop :=
  ∀ (m : OpcodeMap) (imm : Byte), legalMap m = true →
    (decodeWord m 0x00#8 imm = .ldXImm imm ∧ widthOfOpcode m 0x00#8 = 2) ∧
    (decodeWord m 0x08#8 imm = .ldSPImm imm ∧ widthOfOpcode m 0x08#8 = 2) ∧
    (decodeWord m 0xe4#8 imm = .pushX ∧ widthOfOpcode m 0xe4#8 = 1) ∧
    (decodeWord m 0xe8#8 imm = .popY ∧ widthOfOpcode m 0xe8#8 = 1) ∧
    (decodeWord m 0xda#8 imm = .unimplemented 0xda#8 ∧ widthOfOpcode m 0xda#8 = 1) ∧
    (decodeWord m 0xfe#8 imm = .nop ∧ widthOfOpcode m 0xfe#8 = 1) ∧
    (decodeWord m 0xff#8 imm = .hlt ∧ widthOfOpcode m 0xff#8 = 1)

/-- The cells are the spec's decisions D3 to D9. -/
def Obligations.SampleWordsDecode : Prop :=
  let m := defaultOpcodeMap
  decode m [0x06#8, 0x40#8] = .ok (.ldYAtImm 0x40#8, []) ∧ decode m [0x0c#8] = .ok (.stAtXY, []) ∧
  decode m [0x13#8] = .ok (.addXAtY, []) ∧ decode m [0x24#8, 0x07#8] = .ok (.subYImm 0x07#8, []) ∧
  decode m [0x31#8] = .ok (.mulXY, []) ∧ decode m [0x46#8, 0x80#8] = .ok (.divYAtImm 0x80#8, []) ∧
  decode m [0x57#8, 0x01#8] = .ok (.decAtImm 0x01#8, []) ∧ decode m [0x65#8] = .ok (.andYX, []) ∧
  decode m [0x8b#8] = .ok (.clrAtX, []) ∧ decode m [0x90#8, 0x10#8] = .ok (.callImm 0x10#8, []) ∧
  decode m [0x93#8] = .ok (.ret, []) ∧ decode m [0xac#8, 0xfe#8] = .ok (.jnzImm 0xfe#8, []) ∧
  decode m [0xd2#8] = .ok (.bcY, []) ∧ decode m [0xe6#8, 0xff#8] = .ok (.popAtImm 0xff#8, []) ∧
  decode m [0xf9#8] = .ok (.inAtY, []) ∧ decode m [0x5a#8] = .ok (.unimplemented 0x5a#8, [])

/-- Which opcodes the default map leaves unassigned is the spec's decision D3. -/
def Obligations.UnassignedOpcodes : Prop :=
  (∀ op imm : Byte,
    (isUnassigned op = true → decodeWord defaultOpcodeMap op imm = .unimplemented op) ∧
    (isUnassigned op = false → ∀ op', decodeWord defaultOpcodeMap op imm ≠ .unimplemented op')) ∧
  (∀ (m : OpcodeMap) (op imm : Byte),
    ((rowOf m op).isNone = true → decodeWord m op imm = .unimplemented op) ∧
    ((rowOf m op).isNone = false → ∀ op', decodeWord m op imm ≠ .unimplemented op')) ∧
  ((List.range 256).filter fun n => isUnassigned (BitVec.ofNat 8 n)).length = 91

/-- The width is a function of the opcode alone (the source's words). -/
def Obligations.WidthFollowsImmediate : Prop :=
  ∀ (m : OpcodeMap) (op : Byte), (widthOfOpcode m op = 1 ∨ widthOfOpcode m op = 2) ∧
    (∀ imm, widthOf (decodeWord m op imm) = widthOfOpcode m op) ∧
    (widthOfOpcode m op = 2 ↔ ∃ imm imm', decodeWord m op imm ≠ decodeWord m op imm') ∧
    (widthOfOpcode m op = 1 → ∀ imm imm', decodeWord m op imm = decodeWord m op imm') ∧
    ((rowOf m op).isNone = true → widthOfOpcode m op = 1)

/-! ### The cycle -/

/-- The cycle of 40_engine_cycle.md section 1; that both bytes must lie in memory is the spec's decision D2. -/
def Obligations.StepRunsDecodedInstruction : Prop :=
  ∀ (s : State) (i : Instr) (rest : List Byte), s.run = .running → s.pc.toNat + 1 < memSize s.params →
    decode s.params.opcodeMap [readCell s.mem s.pc.toNat, readCell s.mem (s.pc.toNat + 1)] = .ok (i, rest) →
    step s = exec i s

/-- The spec's decisions D2 (no wrap of PC + 1), D20, D21 and D22. -/
def Obligations.FetchFaults : Prop :=
  ∀ s : State, s.run = .running →
    (memSize s.params ≤ s.pc.toNat →
      step s = .next { s with run := .faulted ⟨.memoryFault, none, s.pc, s.pc.toNat⟩ }) ∧
    (s.pc.toNat < memSize s.params → memSize s.params ≤ s.pc.toNat + 1 →
      step s = .next
        { s with run := .faulted ⟨.memoryFault, some (readCell s.mem s.pc.toNat), s.pc, s.pc.toNat + 1⟩ }) ∧
    (s.params.topAddr = 0xff#8 → s.pc = 0xff#8 →
      step s = .next { s with run := .faulted ⟨.memoryFault, some (readCell s.mem 0xff), 0xff#8, 0x100⟩ })

/-- The spec's decisions D18 and D35. -/
def Obligations.HaltedPolls : Prop :=
  ∀ s : State, s.run = .halted →
    (s.f.getLsbD 7 = true → step s = .next { s with pc := s.pc + 1#8, run := .running }) ∧
    (s.f.getLsbD 7 = false → step s = .next s)

/-- The spec's decisions D18 and D20. That 'no step' is an outcome of its own is the model's choice (log 6). -/
def Obligations.NoStepAfterTheRun : Prop :=
  ∀ s : State, (s.run = .stopped → step s = .fault .runStopped) ∧
    (∀ r, s.run = .faulted r → step s = .fault (.runFaulted r)) ∧
    (s.run = .running ∨ s.run = .halted → ∃ t, step s = .next t)

/-- The table of 10_state.md section 2, by the spec's decisions D18 and D20. That HLT is at 0xff under every
legal map is the model's deduction: `legalMap` keeps the family ranges (log 2). -/
def Obligations.RunStateTransitions : Prop :=
  ∀ s t : State, step s = .next t →
    (s.run = .running ∧
      (t.run = .running ∨
        t = { s with run := t.run } ∧
          ((t.run = .halted ∧ HltAtPc s ∧ s.params.haltBehavior = .spin ∧ s.f.getLsbD 7 = false) ∨
            (t.run = .stopped ∧ HltAtPc s ∧ s.params.haltBehavior = .terminate) ∨
            ∃ r, t.run = .faulted r ∧ r.pc = s.pc))) ∨
    (s.run = .halted ∧ (t.run = .running ∧ s.f.getLsbD 7 = true ∨ t.run = .halted ∧ s.f.getLsbD 7 = false))

/-- The spec's decisions D15 and D19; HLT and a fault do not advance. -/
def Obligations.PcPolicy : Prop :=
  (∀ (i : Instr) (s t : State), canAssignPc i = false → s.run = .running → exec i s = .next t →
    (t.run = .running ∧ t.pc = s.pc + BitVec.ofNat 8 (widthOf i)) ∨ (t.run ≠ .running ∧ t.pc = s.pc)) ∧
  ∀ s : State, s.run = .running → exec (.jmpImm s.pc) s = .next s

/-! ### Operands, memory, flags and conditions -/

/-- 40_engine_cycle.md R125. -/
def Obligations.OperandValues : Prop :=
  ∀ (s : State) (imm : Byte),
    val (.imm imm) s = .ok imm ∧ val .x s = .ok s.x ∧ val .y s = .ok s.y ∧ val .sp s = .ok s.sp ∧
    (imm.toNat < memSize s.params → val (.atImm imm) s = .ok (readCell s.mem imm.toNat)) ∧
    (memSize s.params ≤ imm.toNat → val (.atImm imm) s = .error (.memory imm.toNat)) ∧
    (s.x.toNat < memSize s.params → val .atX s = .ok (readCell s.mem s.x.toNat)) ∧
    (memSize s.params ≤ s.x.toNat → val .atX s = .error (.memory s.x.toNat)) ∧
    (s.y.toNat < memSize s.params → val .atY s = .ok (readCell s.mem s.y.toNat)) ∧
    (memSize s.params ≤ s.y.toNat → val .atY s = .error (.memory s.y.toNat))

/-- The primitives of 20_memory.md section 1. The canonical form is the model's (log 5). -/
def Obligations.ReadAfterWrite : Prop :=
  ∀ (s : State) (a : Nat) (v : Byte),
    (a < memSize s.params → ∃ t, memWrite a v s = .ok t ∧ t = { s with mem := t.mem } ∧ memRead a t = .ok v ∧
      (∀ b, b ≠ a → memRead b t = memRead b s) ∧ (Memory.wf s.mem = true → Memory.wf t.mem = true)) ∧
    (memSize s.params ≤ a → memWrite a v s = .error (.memory a) ∧ memRead a s = .error (.memory a))

/-- The canonical form is the model's choice (log 5): it loses and adds nothing. -/
def Obligations.EqualReadsEqualMemory : Prop :=
  ∀ m m' : Memory, Memory.wf m = true → Memory.wf m' = true → (∀ a, readCell m a = readCell m' a) → m = m'

/-- That T and bits 3 to 6 are kept is the spec's decision D12. -/
def Obligations.FlagUpdatePolicy : Prop :=
  ∀ (t : Wide) (f : Byte), FlagsFrom t.toNat f (applyFlags t f) ∧
    ((applyFlags t f).getLsbD 2 = true → (applyFlags t f).getLsbD 0 = true)

/-- The first clause is 40_engine_cycle.md R130 and the second its consequence for opcodes, which R130 does not name:
that a legal map keeps the family ranges of 30_encoding.md R93 is the model's deduction (log 2). -/
def Obligations.ConditionalTest : Prop :=
  (∀ f : Byte,
    (condHolds .o .ifSet f = true ↔ f ≠ 0#8 ∧ f.getLsbD 0 = true) ∧
    (condHolds .o .ifClear f = true ↔ f ≠ 0#8 ∧ f.getLsbD 0 = false) ∧
    (condHolds .z .ifSet f = true ↔ f ≠ 0#8 ∧ f.getLsbD 1 = true) ∧
    (condHolds .z .ifClear f = true ↔ f ≠ 0#8 ∧ f.getLsbD 1 = false) ∧
    (condHolds .t .ifSet f = true ↔ f ≠ 0#8 ∧ f.getLsbD 7 = true) ∧
    (condHolds .t .ifClear f = true ↔ f ≠ 0#8 ∧ f.getLsbD 7 = false) ∧
    (condHolds .c .ifSet f = true ↔ f ≠ 0#8 ∧ f.getLsbD 2 = true) ∧
    (condHolds .c .ifClear f = true ↔ f ≠ 0#8 ∧ f.getLsbD 2 = false)) ∧
  ∀ (m : OpcodeMap) (op imm : Byte) (s : State), legalMap m = true →
    (0xa3 ≤ op.toNat ∧ op.toNat ≤ 0xba ∨ 0xbe ≤ op.toNat ∧ op.toNat ≤ 0xd5) → s.run = .running → s.f = 0x00#8 →
    exec (decodeWord m op imm) s = .next { s with pc := s.pc + BitVec.ofNat 8 (widthOfOpcode m op) }

/-! ### Load and store -/

/-- 41_load_store.md R151. The premise that the list is an OPCODE_MAP is `legalMap` (log 2); it keeps 0x00 (R94). -/
def Obligations.LoadXImmediate : Prop :=
  (∀ imm, encode (.ldXImm imm) = [0x00#8, imm] ∧ ∀ m, legalMap m = true → decodeWord m 0x00#8 imm = .ldXImm imm) ∧
  (∀ (s : State) (imm : Byte), s.run = .running → exec (.ldXImm imm) s = .next { s with x := imm, pc := s.pc + 2#8 }) ∧
  ∀ s : State, legalMap s.params.opcodeMap = true → s.run = .running → readCell s.mem s.pc.toNat = 0x00#8 →
    (s.pc.toNat + 1 < memSize s.params →
      step s = .next { s with x := readCell s.mem (s.pc.toNat + 1), pc := s.pc + 2#8 }) ∧
    (s.params.topAddr = 0xff#8 → s.pc = 0xff#8 →
      step s = .next { s with run := .faulted ⟨.memoryFault, some 0x00#8, 0xff#8, 0x100⟩ })

/-- 41_load_store.md R159. The premise that the list is an OPCODE_MAP is `legalMap` (log 2); it keeps 0x08 (R94). -/
def Obligations.LoadSPImmediate : Prop :=
  (∀ imm, encode (.ldSPImm imm) = [0x08#8, imm] ∧ ∀ m, legalMap m = true → decodeWord m 0x08#8 imm = .ldSPImm imm) ∧
  (∀ (s : State) (imm : Byte), s.run = .running →
    exec (.ldSPImm imm) s = .next { s with sp := imm, pc := s.pc + 2#8 }) ∧
  ∀ s : State, legalMap s.params.opcodeMap = true → s.run = .running → readCell s.mem s.pc.toNat = 0x08#8 →
    (s.pc.toNat + 1 < memSize s.params →
      step s = .next { s with sp := readCell s.mem (s.pc.toNat + 1), pc := s.pc + 2#8 }) ∧
    (s.params.topAddr = 0xff#8 → s.pc = 0xff#8 →
      step s = .next { s with run := .faulted ⟨.memoryFault, some 0x08#8, 0xff#8, 0x100⟩ })

/-- The forms and opcodes are the spec's decisions D3 and D5. -/
def Obligations.LoadForms : Prop :=
  ∀ (s : State) (imm : Byte), s.run = .running →
    exec (.ldXImm imm) s = .next { s with x := imm, pc := s.pc + 2#8 } ∧
    exec .ldXY s = .next { s with x := s.y, pc := s.pc + 1#8 } ∧
    exec (.ldYImm imm) s = .next { s with y := imm, pc := s.pc + 2#8 } ∧
    exec .ldYX s = .next { s with y := s.x, pc := s.pc + 1#8 } ∧
    exec (.ldSPImm imm) s = .next { s with sp := imm, pc := s.pc + 2#8 } ∧
    exec .ldXSP s = .next { s with x := s.sp, pc := s.pc + 1#8 } ∧
    (imm.toNat < memSize s.params →
      exec (.ldXAtImm imm) s = .next { s with x := readCell s.mem imm.toNat, pc := s.pc + 2#8 } ∧
      exec (.ldYAtImm imm) s = .next { s with y := readCell s.mem imm.toNat, pc := s.pc + 2#8 }) ∧
    (s.y.toNat < memSize s.params →
      exec .ldXAtY s = .next { s with x := readCell s.mem s.y.toNat, pc := s.pc + 1#8 }) ∧
    (s.x.toNat < memSize s.params →
      exec .ldYAtX s = .next { s with y := readCell s.mem s.x.toNat, pc := s.pc + 1#8 })

/-- The forms and opcodes are the spec's decisions D3 and D5. -/
def Obligations.StoreForms : Prop :=
  ∀ (s : State) (imm : Byte), s.run = .running →
    (imm.toNat < memSize s.params →
      StoresAt (.stAtImmX imm) imm s.x { s with pc := s.pc + 2#8 } s ∧
      StoresAt (.stAtImmY imm) imm s.y { s with pc := s.pc + 2#8 } s) ∧
    (s.y.toNat < memSize s.params → StoresAt .stAtYX s.y s.x { s with pc := s.pc + 1#8 } s) ∧
    (s.x.toNat < memSize s.params → StoresAt .stAtXY s.x s.y { s with pc := s.pc + 1#8 } s)

/-! ### Arithmetic and logic -/

/-- t is the sum a + b. The spec's decisions D3, D4, D10 and D12. -/
def Obligations.AddForms : Prop :=
  ∀ (s : State) (imm : Byte), s.run = .running →
    ResultInX (.addXImm imm) (s.x.toNat + imm.toNat) 2 s ∧
    ResultInX .addXY (s.x.toNat + s.y.toNat) 1 s ∧
    ResultInY (.addYImm imm) (s.y.toNat + imm.toNat) 2 s ∧
    ResultInY .addYX (s.y.toNat + s.x.toNat) 1 s ∧
    (imm.toNat < memSize s.params → ResultInX (.addXAtImm imm) (s.x.toNat + (readCell s.mem imm.toNat).toNat) 2 s) ∧
    (imm.toNat < memSize s.params → ResultInY (.addYAtImm imm) (s.y.toNat + (readCell s.mem imm.toNat).toNat) 2 s) ∧
    (s.y.toNat < memSize s.params → ResultInX .addXAtY (s.x.toNat + (readCell s.mem s.y.toNat).toNat) 1 s) ∧
    (s.x.toNat < memSize s.params → ResultInY .addYAtX (s.y.toNat + (readCell s.mem s.x.toNat).toNat) 1 s)

/-- t is the difference a - b modulo 2^16. The spec's decisions D3, D4, D10 and D12. -/
def Obligations.SubForms : Prop :=
  ∀ (s : State) (imm : Byte), s.run = .running →
    ResultInX (.subXImm imm) (difference s.x.toNat imm.toNat) 2 s ∧
    ResultInX .subXY (difference s.x.toNat s.y.toNat) 1 s ∧
    ResultInY (.subYImm imm) (difference s.y.toNat imm.toNat) 2 s ∧
    ResultInY .subYX (difference s.y.toNat s.x.toNat) 1 s ∧
    (imm.toNat < memSize s.params →
      ResultInX (.subXAtImm imm) (difference s.x.toNat (readCell s.mem imm.toNat).toNat) 2 s) ∧
    (imm.toNat < memSize s.params →
      ResultInY (.subYAtImm imm) (difference s.y.toNat (readCell s.mem imm.toNat).toNat) 2 s) ∧
    (s.y.toNat < memSize s.params → ResultInX .subXAtY (difference s.x.toNat (readCell s.mem s.y.toNat).toNat) 1 s) ∧
    (s.x.toNat < memSize s.params → ResultInY .subYAtX (difference s.y.toNat (readCell s.mem s.x.toNat).toNat) 1 s)

/-- t is the product a * b. The spec's decisions D3, D4, D10 and D12. -/
def Obligations.MulForms : Prop :=
  ∀ (s : State) (imm : Byte), s.run = .running →
    ResultInX (.mulXImm imm) (s.x.toNat * imm.toNat) 2 s ∧
    ResultInX .mulXY (s.x.toNat * s.y.toNat) 1 s ∧
    ResultInY (.mulYImm imm) (s.y.toNat * imm.toNat) 2 s ∧
    ResultInY .mulYX (s.y.toNat * s.x.toNat) 1 s ∧
    (imm.toNat < memSize s.params → ResultInX (.mulXAtImm imm) (s.x.toNat * (readCell s.mem imm.toNat).toNat) 2 s) ∧
    (imm.toNat < memSize s.params → ResultInY (.mulYAtImm imm) (s.y.toNat * (readCell s.mem imm.toNat).toNat) 2 s) ∧
    (s.y.toNat < memSize s.params → ResultInX .mulXAtY (s.x.toNat * (readCell s.mem s.y.toNat).toNat) 1 s) ∧
    (s.x.toNat < memSize s.params → ResultInY .mulYAtX (s.y.toNat * (readCell s.mem s.x.toNat).toNat) 1 s)

/-- t is the floor of a / b. The spec's decisions D3, D4, D10, D11 and D12. -/
def Obligations.DivForms : Prop :=
  ∀ (s : State) (imm : Byte), s.run = .running →
    (imm ≠ 0#8 → ResultInX (.divXImm imm) (s.x.toNat / imm.toNat) 2 s) ∧
    (s.y ≠ 0#8 → ResultInX .divXY (s.x.toNat / s.y.toNat) 1 s) ∧
    (imm ≠ 0#8 → ResultInY (.divYImm imm) (s.y.toNat / imm.toNat) 2 s) ∧
    (s.x ≠ 0#8 → ResultInY .divYX (s.y.toNat / s.x.toNat) 1 s) ∧
    (imm.toNat < memSize s.params → (readCell s.mem imm.toNat) ≠ 0#8 →
      ResultInX (.divXAtImm imm) (s.x.toNat / (readCell s.mem imm.toNat).toNat) 2 s) ∧
    (imm.toNat < memSize s.params → (readCell s.mem imm.toNat) ≠ 0#8 →
      ResultInY (.divYAtImm imm) (s.y.toNat / (readCell s.mem imm.toNat).toNat) 2 s) ∧
    (s.y.toNat < memSize s.params → (readCell s.mem s.y.toNat) ≠ 0#8 →
      ResultInX .divXAtY (s.x.toNat / (readCell s.mem s.y.toNat).toNat) 1 s) ∧
    (s.x.toNat < memSize s.params → (readCell s.mem s.x.toNat) ≠ 0#8 →
      ResultInY .divYAtX (s.y.toNat / (readCell s.mem s.x.toNat).toNat) 1 s)

/-- The fatal condition is the spec's decision D11 (the source leaves the choice); the precise fault is D20. -/
def Obligations.DivByZeroFaults : Prop :=
  ∀ s : State,
    exec (.divXImm 0#8) s = .next { s with run := .faulted ⟨.arithmeticFault, some (readCell s.mem s.pc.toNat), s.pc, 0⟩ } ∧
    exec (.divYImm 0#8) s = .next { s with run := .faulted ⟨.arithmeticFault, some (readCell s.mem s.pc.toNat), s.pc, 0⟩ } ∧
    (s.y = 0#8 →
      exec .divXY s = .next { s with run := .faulted ⟨.arithmeticFault, some (readCell s.mem s.pc.toNat), s.pc, 0⟩ }) ∧
    (s.x = 0#8 →
      exec .divYX s = .next { s with run := .faulted ⟨.arithmeticFault, some (readCell s.mem s.pc.toNat), s.pc, 0⟩ }) ∧
    (∀ a : Byte, a.toNat < memSize s.params → readCell s.mem a.toNat = 0#8 →
      exec (.divXAtImm a) s = .next { s with run := .faulted ⟨.arithmeticFault, some (readCell s.mem s.pc.toNat), s.pc, 0⟩ } ∧
      exec (.divYAtImm a) s = .next { s with run := .faulted ⟨.arithmeticFault, some (readCell s.mem s.pc.toNat), s.pc, 0⟩ }) ∧
    (s.y.toNat < memSize s.params → readCell s.mem s.y.toNat = 0#8 →
      exec .divXAtY s = .next { s with run := .faulted ⟨.arithmeticFault, some (readCell s.mem s.pc.toNat), s.pc, 0⟩ }) ∧
    (s.x.toNat < memSize s.params → readCell s.mem s.x.toNat = 0#8 →
      exec .divYAtX s = .next { s with run := .faulted ⟨.arithmeticFault, some (readCell s.mem s.pc.toNat), s.pc, 0⟩ })

/-- t is the bitwise and of a and b. The spec's decisions D3, D4 and D12. -/
def Obligations.AndForms : Prop :=
  ∀ (s : State) (imm : Byte), s.run = .running →
    ResultInX (.andXImm imm) (s.x.toNat &&& imm.toNat) 2 s ∧
    ResultInX .andXY (s.x.toNat &&& s.y.toNat) 1 s ∧
    ResultInY (.andYImm imm) (s.y.toNat &&& imm.toNat) 2 s ∧
    ResultInY .andYX (s.y.toNat &&& s.x.toNat) 1 s ∧
    (imm.toNat < memSize s.params →
      ResultInX (.andXAtImm imm) (s.x.toNat &&& (readCell s.mem imm.toNat).toNat) 2 s) ∧
    (imm.toNat < memSize s.params →
      ResultInY (.andYAtImm imm) (s.y.toNat &&& (readCell s.mem imm.toNat).toNat) 2 s) ∧
    (s.y.toNat < memSize s.params → ResultInX .andXAtY (s.x.toNat &&& (readCell s.mem s.y.toNat).toNat) 1 s) ∧
    (s.x.toNat < memSize s.params → ResultInY .andYAtX (s.y.toNat &&& (readCell s.mem s.x.toNat).toNat) 1 s)

/-- t is the bitwise or of a and b. The spec's decisions D3, D4 and D12. -/
def Obligations.OrForms : Prop :=
  ∀ (s : State) (imm : Byte), s.run = .running →
    ResultInX (.orXImm imm) (s.x.toNat ||| imm.toNat) 2 s ∧
    ResultInX .orXY (s.x.toNat ||| s.y.toNat) 1 s ∧
    ResultInY (.orYImm imm) (s.y.toNat ||| imm.toNat) 2 s ∧
    ResultInY .orYX (s.y.toNat ||| s.x.toNat) 1 s ∧
    (imm.toNat < memSize s.params → ResultInX (.orXAtImm imm) (s.x.toNat ||| (readCell s.mem imm.toNat).toNat) 2 s) ∧
    (imm.toNat < memSize s.params → ResultInY (.orYAtImm imm) (s.y.toNat ||| (readCell s.mem imm.toNat).toNat) 2 s) ∧
    (s.y.toNat < memSize s.params → ResultInX .orXAtY (s.x.toNat ||| (readCell s.mem s.y.toNat).toNat) 1 s) ∧
    (s.x.toNat < memSize s.params → ResultInY .orYAtX (s.y.toNat ||| (readCell s.mem s.x.toNat).toNat) 1 s)

/-- t is the bitwise exclusive or of a and b. The spec's decisions D3, D4 and D12. -/
def Obligations.XorForms : Prop :=
  ∀ (s : State) (imm : Byte), s.run = .running →
    ResultInX (.xorXImm imm) (s.x.toNat ^^^ imm.toNat) 2 s ∧
    ResultInX .xorXY (s.x.toNat ^^^ s.y.toNat) 1 s ∧
    ResultInY (.xorYImm imm) (s.y.toNat ^^^ imm.toNat) 2 s ∧
    ResultInY .xorYX (s.y.toNat ^^^ s.x.toNat) 1 s ∧
    (imm.toNat < memSize s.params →
      ResultInX (.xorXAtImm imm) (s.x.toNat ^^^ (readCell s.mem imm.toNat).toNat) 2 s) ∧
    (imm.toNat < memSize s.params →
      ResultInY (.xorYAtImm imm) (s.y.toNat ^^^ (readCell s.mem imm.toNat).toNat) 2 s) ∧
    (s.y.toNat < memSize s.params → ResultInX .xorXAtY (s.x.toNat ^^^ (readCell s.mem s.y.toNat).toNat) 1 s) ∧
    (s.x.toNat < memSize s.params → ResultInY .xorYAtX (s.y.toNat ^^^ (readCell s.mem s.x.toNat).toNat) 1 s)

/-- The spec's decisions D3, D6, D10 and D12. -/
def Obligations.IncDecForms : Prop :=
  ∀ (s : State) (imm : Byte), s.run = .running →
    ResultInX .incX (s.x.toNat + 1) 1 s ∧ ResultInY .incY (s.y.toNat + 1) 1 s ∧
    (imm.toNat < memSize s.params →
      ResultInCell (.incAtImm imm) imm ((readCell s.mem imm.toNat).toNat + 1) 2 s) ∧
    (s.x.toNat < memSize s.params →
      ResultInCell .incAtX s.x ((readCell s.mem s.x.toNat).toNat + 1) 1 s) ∧
    (s.y.toNat < memSize s.params →
      ResultInCell .incAtY s.y ((readCell s.mem s.y.toNat).toNat + 1) 1 s) ∧
    ResultInX .decX (difference s.x.toNat 1) 1 s ∧ ResultInY .decY (difference s.y.toNat 1) 1 s ∧
    (imm.toNat < memSize s.params →
      ResultInCell (.decAtImm imm) imm (difference (readCell s.mem imm.toNat).toNat 1) 2 s) ∧
    (s.x.toNat < memSize s.params →
      ResultInCell .decAtX s.x (difference (readCell s.mem s.x.toNat).toNat 1) 1 s) ∧
    (s.y.toNat < memSize s.params →
      ResultInCell .decAtY s.y (difference (readCell s.mem s.y.toNat).toNat 1) 1 s)

/-- The spec's decisions D3, D6 and D12. -/
def Obligations.ClrForms : Prop :=
  ∀ (s : State) (imm : Byte), s.run = .running →
    ResultInX .clrX 0 1 s ∧ ResultInY .clrY 0 1 s ∧
    (imm.toNat < memSize s.params →
      ResultInCell (.clrAtImm imm) imm 0 2 s) ∧
    (s.x.toNat < memSize s.params →
      ResultInCell .clrAtX s.x 0 1 s) ∧
    (s.y.toNat < memSize s.params →
      ResultInCell .clrAtY s.y 0 1 s)

/-! ### Control flow -/

/-- That the return address is pushed is 90_conflicts.md C1 and the spec's decision D17; the stack is D13. -/
def Obligations.CallForms : Prop :=
  ∀ (s : State) (imm : Byte), s.run = .running → s.sp.toNat < memSize s.params →
    StoresAt (.callImm imm) s.sp (s.pc + 2#8) { s with sp := s.sp + 1#8, pc := imm } s ∧
    StoresAt .callX s.sp (s.pc + 1#8) { s with sp := s.sp + 1#8, pc := s.x } s ∧
    StoresAt .callY s.sp (s.pc + 1#8) { s with sp := s.sp + 1#8, pc := s.y } s

/-- The spec's decisions D13 and D17. -/
def Obligations.RetForm : Prop :=
  ∀ s : State, s.run = .running → (s.sp - 1#8).toNat < memSize s.params →
    exec .ret s = .next { s with sp := s.sp - 1#8, pc := readCell s.mem (s.sp - 1#8).toNat }

/-- The testable law of the source, S5 of 95_test_vectors.md. -/
def Obligations.CallThenReturn : Prop :=
  ∀ (s : State) (imm : Byte), s.run = .running → s.sp.toNat < memSize s.params →
    ∀ i ∈ [Instr.callImm imm, .callX, .callY], ∃ t, exec i s = .next t ∧
      exec .ret t = .next { s with mem := t.mem, pc := s.pc + BitVec.ofNat 8 (widthOf i) }

/-- The opcodes are the spec's decisions D3 and D8. -/
def Obligations.JumpForms : Prop :=
  ∀ (s : State) (imm : Byte), s.run = .running →
    exec (.jmpImm imm) s = .next { s with pc := imm } ∧ exec .jmpX s = .next { s with pc := s.x } ∧
    exec .jmpY s = .next { s with pc := s.y }

/-- The order of the 24 cells is the spec's decision D9. -/
def Obligations.ConditionalJumps : Prop :=
  ∀ (s : State) (imm : Byte), s.run = .running →
    JumpsIf (.joImm imm) 0 true imm 2 s ∧ JumpsIf .joX 0 true s.x 1 s ∧ JumpsIf .joY 0 true s.y 1 s ∧
    JumpsIf (.jnoImm imm) 0 false imm 2 s ∧ JumpsIf .jnoX 0 false s.x 1 s ∧ JumpsIf .jnoY 0 false s.y 1 s ∧
    JumpsIf (.jzImm imm) 1 true imm 2 s ∧ JumpsIf .jzX 1 true s.x 1 s ∧ JumpsIf .jzY 1 true s.y 1 s ∧
    JumpsIf (.jnzImm imm) 1 false imm 2 s ∧ JumpsIf .jnzX 1 false s.x 1 s ∧ JumpsIf .jnzY 1 false s.y 1 s ∧
    JumpsIf (.jtImm imm) 7 true imm 2 s ∧ JumpsIf .jtX 7 true s.x 1 s ∧ JumpsIf .jtY 7 true s.y 1 s ∧
    JumpsIf (.jntImm imm) 7 false imm 2 s ∧ JumpsIf .jntX 7 false s.x 1 s ∧ JumpsIf .jntY 7 false s.y 1 s ∧
    JumpsIf (.jcImm imm) 2 true imm 2 s ∧ JumpsIf .jcX 2 true s.x 1 s ∧ JumpsIf .jcY 2 true s.y 1 s ∧
    JumpsIf (.jncImm imm) 2 false imm 2 s ∧ JumpsIf .jncX 2 false s.x 1 s ∧ JumpsIf .jncY 2 false s.y 1 s

/-- Base, widening and flags are the spec's decision D16; two's complement is general knowledge G3 (log 12). -/
def Obligations.BranchForms : Prop :=
  ∀ (s : State) (imm : Byte), s.run = .running →
    Branches (.brImm imm) imm s ∧ Branches .brX s.x s ∧ Branches .brY s.y s

/-- The order of the cells is the spec's decision D9; that a branch not taken writes no flag is D16. -/
def Obligations.ConditionalBranches : Prop :=
  ∀ (s : State) (imm : Byte), s.run = .running →
    BranchesIf (.boImm imm) 0 true imm 2 s ∧ BranchesIf .boX 0 true s.x 1 s ∧ BranchesIf .boY 0 true s.y 1 s ∧
    BranchesIf (.bnoImm imm) 0 false imm 2 s ∧ BranchesIf .bnoX 0 false s.x 1 s ∧ BranchesIf .bnoY 0 false s.y 1 s ∧
    BranchesIf (.bzImm imm) 1 true imm 2 s ∧ BranchesIf .bzX 1 true s.x 1 s ∧ BranchesIf .bzY 1 true s.y 1 s ∧
    BranchesIf (.bnzImm imm) 1 false imm 2 s ∧ BranchesIf .bnzX 1 false s.x 1 s ∧ BranchesIf .bnzY 1 false s.y 1 s ∧
    BranchesIf (.btImm imm) 7 true imm 2 s ∧ BranchesIf .btX 7 true s.x 1 s ∧ BranchesIf .btY 7 true s.y 1 s ∧
    BranchesIf (.bntImm imm) 7 false imm 2 s ∧ BranchesIf .bntX 7 false s.x 1 s ∧ BranchesIf .bntY 7 false s.y 1 s ∧
    BranchesIf (.bcImm imm) 2 true imm 2 s ∧ BranchesIf .bcX 2 true s.x 1 s ∧ BranchesIf .bcY 2 true s.y 1 s ∧
    BranchesIf (.bncImm imm) 2 false imm 2 s ∧ BranchesIf .bncX 2 false s.x 1 s ∧ BranchesIf .bncY 2 false s.y 1 s

/-- The spec's decision D16. -/
def Obligations.BranchFlagsByTarget : Prop :=
  ∀ (s : State) (imm : Byte), s.run = .running →
    BranchesByTarget (.brImm imm) imm s ∧ BranchesByTarget .brX s.x s ∧ BranchesByTarget .brY s.y s ∧
    (s.f ≠ 0#8 →
      (s.f.getLsbD 0 = true → BranchesByTarget (.boImm imm) imm s ∧ BranchesByTarget .boX s.x s ∧
        BranchesByTarget .boY s.y s) ∧
      (s.f.getLsbD 0 = false → BranchesByTarget (.bnoImm imm) imm s ∧ BranchesByTarget .bnoX s.x s ∧
        BranchesByTarget .bnoY s.y s) ∧
      (s.f.getLsbD 1 = true → BranchesByTarget (.bzImm imm) imm s ∧ BranchesByTarget .bzX s.x s ∧
        BranchesByTarget .bzY s.y s) ∧
      (s.f.getLsbD 1 = false → BranchesByTarget (.bnzImm imm) imm s ∧ BranchesByTarget .bnzX s.x s ∧
        BranchesByTarget .bnzY s.y s) ∧
      (s.f.getLsbD 7 = true → BranchesByTarget (.btImm imm) imm s ∧ BranchesByTarget .btX s.x s ∧
        BranchesByTarget .btY s.y s) ∧
      (s.f.getLsbD 7 = false → BranchesByTarget (.bntImm imm) imm s ∧ BranchesByTarget .bntX s.x s ∧
        BranchesByTarget .bntY s.y s) ∧
      (s.f.getLsbD 2 = true → BranchesByTarget (.bcImm imm) imm s ∧ BranchesByTarget .bcX s.x s ∧
        BranchesByTarget .bcY s.y s) ∧
      (s.f.getLsbD 2 = false → BranchesByTarget (.bncImm imm) imm s ∧ BranchesByTarget .bncX s.x s ∧
        BranchesByTarget .bncY s.y s))

/-! ### Stack, input and output, halt -/

/-- The stack discipline is the spec's decisions D13 and D14; the six forms are D7. -/
def Obligations.PushForms : Prop :=
  ∀ (s : State) (imm : Byte), s.run = .running → s.sp.toNat < memSize s.params →
    StoresAt (.pushImm imm) s.sp imm { s with sp := s.sp + 1#8, pc := s.pc + 2#8 } s ∧
    StoresAt .pushX s.sp s.x { s with sp := s.sp + 1#8, pc := s.pc + 1#8 } s ∧
    StoresAt .pushY s.sp s.y { s with sp := s.sp + 1#8, pc := s.pc + 1#8 } s ∧
    (imm.toNat < memSize s.params →
      StoresAt (.pushAtImm imm) s.sp (readCell s.mem imm.toNat) { s with sp := s.sp + 1#8, pc := s.pc + 2#8 } s) ∧
    (s.x.toNat < memSize s.params →
      StoresAt .pushAtX s.sp (readCell s.mem s.x.toNat) { s with sp := s.sp + 1#8, pc := s.pc + 1#8 } s) ∧
    (s.y.toNat < memSize s.params →
      StoresAt .pushAtY s.sp (readCell s.mem s.y.toNat) { s with sp := s.sp + 1#8, pc := s.pc + 1#8 } s)

/-- The stack discipline is the spec's decisions D13 and D14; the four forms are D7. -/
def Obligations.PopForms : Prop :=
  ∀ (s : State) (imm : Byte), s.run = .running → (s.sp - 1#8).toNat < memSize s.params →
    let v := readCell s.mem (s.sp - 1#8).toNat
    exec .popX s = .next { s with x := v, sp := s.sp - 1#8, pc := s.pc + 1#8 } ∧
    exec .popY s = .next { s with y := v, sp := s.sp - 1#8, pc := s.pc + 1#8 } ∧
    (imm.toNat < memSize s.params →
      StoresAt (.popAtImm imm) imm v { s with sp := s.sp - 1#8, pc := s.pc + 2#8 } s) ∧
    (s.x.toNat < memSize s.params → StoresAt .popAtX s.x v { s with sp := s.sp - 1#8, pc := s.pc + 1#8 } s)

/-- The testable law of the source, S4 of 95_test_vectors.md. -/
def Obligations.StackRoundTrip : Prop :=
  ∀ s : State, s.run = .running → s.sp.toNat < memSize s.params →
    (∃ a b c, exec .pushX s = .next a ∧ exec .clrX a = .next b ∧ b.x = 0#8 ∧ exec .popX b = .next c ∧
      c = { s with mem := c.mem, f := c.f, pc := s.pc + 3#8 }) ∧
    ∃ a b c, exec .pushY s = .next a ∧ exec .clrY a = .next b ∧ b.y = 0#8 ∧ exec .popY b = .next c ∧
      c = { s with mem := c.mem, f := c.f, pc := s.pc + 3#8 }

/-- The direction and the order of the forms are the spec's decision D6; the plain latch is D24. -/
def Obligations.OutForms : Prop :=
  ∀ (s : State) (imm : Byte), s.run = .running →
    exec .outX s = .next { s with io := s.x, pc := s.pc + 1#8 } ∧
    exec .outY s = .next { s with io := s.y, pc := s.pc + 1#8 } ∧
    (imm.toNat < memSize s.params →
      exec (.outAtImm imm) s = .next { s with io := readCell s.mem imm.toNat, pc := s.pc + 2#8 }) ∧
    (s.x.toNat < memSize s.params →
      exec .outAtX s = .next { s with io := readCell s.mem s.x.toNat, pc := s.pc + 1#8 }) ∧
    (s.y.toNat < memSize s.params →
      exec .outAtY s = .next { s with io := readCell s.mem s.y.toNat, pc := s.pc + 1#8 })

/-- The direction and the order of the forms are the spec's decision D6; the plain latch is D24. -/
def Obligations.InForms : Prop :=
  ∀ (s : State) (imm : Byte), s.run = .running →
    exec .inX s = .next { s with x := s.io, pc := s.pc + 1#8 } ∧
    exec .inY s = .next { s with y := s.io, pc := s.pc + 1#8 } ∧
    (imm.toNat < memSize s.params → StoresAt (.inAtImm imm) imm s.io { s with pc := s.pc + 2#8 } s) ∧
    (s.x.toNat < memSize s.params → StoresAt .inAtX s.x s.io { s with pc := s.pc + 1#8 } s) ∧
    (s.y.toNat < memSize s.params → StoresAt .inAtY s.y s.io { s with pc := s.pc + 1#8 } s)

/-- HLT is the spec's decisions D18 and D35; NOP's opcode is the source's. -/
def Obligations.NopAndHlt : Prop :=
  ∀ s : State, s.run = .running →
    exec .nop s = .next { s with pc := s.pc + 1#8 } ∧
    (s.params.haltBehavior = .terminate → exec .hlt s = .next { s with run := .stopped }) ∧
    (s.params.haltBehavior = .spin → s.f.getLsbD 7 = true → exec .hlt s = .next { s with pc := s.pc + 1#8 }) ∧
    (s.params.haltBehavior = .spin → s.f.getLsbD 7 = false → exec .hlt s = .next { s with run := .halted })

/-- 40_engine_cycle.md R136. -/
def Obligations.UnimplementedOpcodeReported : Prop :=
  (∀ (op : Byte) (s : State), s.run = .running → exec (.unimplemented op) s = .next { s with pc := s.pc + 1#8 }) ∧
  ∀ s : State, s.run = .running → s.pc.toNat + 1 < memSize s.params →
    (rowOf s.params.opcodeMap (readCell s.mem s.pc.toNat)).isNone = true →
    step s = .next { s with pc := s.pc + 1#8 } ∧ reportedEvent s = some ⟨readCell s.mem s.pc.toNat, s.pc⟩

/-! ### The whole machine -/

/-- The order is the spec's decision D22, the precise fault D20. `accesses` lists the addresses in pseudocode order. -/
def Obligations.EveryInstructionCompletesOrFaults : Prop :=
  ∀ (i : Instr) (s : State),
    match (accesses i s).find? (fun a => decide (memSize s.params ≤ a.toNat)) with
    | some a =>
      exec i s =
        .next { s with run := .faulted ⟨.memoryFault, some (readCell s.mem s.pc.toNat), s.pc, a.toNat⟩ }
    | none =>
      if divisor i s = some 0#8 then
        exec i s = .next { s with run := .faulted ⟨.arithmeticFault, some (readCell s.mem s.pc.toNat), s.pc, 0⟩ }
      else ∃ t, exec i s = .next t ∧ ∀ r, t.run = .faulted r → s.run = .faulted r

/-- Precise faults are the spec's decision D20. -/
def Obligations.FaultCommitsNothing : Prop :=
  ∀ (s t : State) (r : FaultRecord), s.run = .running → step s = .next t → t.run = .faulted r →
    t = { s with run := .faulted r } ∧ r.pc = s.pc ∧
    (r.kind = .memoryFault → memSize s.params ≤ r.addrOrOperand) ∧
    (r.kind = .arithmeticFault → r.addrOrOperand = 0) ∧
    r.opcode = if s.pc.toNat < memSize s.params then some (readCell s.mem s.pc.toNat) else none

/-- MEM_SIZE = 256 and PC + 1 not wrapped are the spec's decisions D1 and D2, the opcodes of DIV D3. -/
def Obligations.FullMemoryNeverFaultsOnData : Prop :=
  ∀ s : State, s.params.topAddr = 0xff#8 →
    (∀ (i : Instr) (t : State) (r : FaultRecord), exec i s = .next t → t.run = .faulted r → s.run ≠ .faulted r →
      r.kind = .arithmeticFault) ∧
    ∀ (t : State) (r : FaultRecord), s.run = .running → step s = .next t → t.run = .faulted r →
      (s.pc = 0xff#8 ∧ r.kind = .memoryFault ∧ r.addrOrOperand = 0x100) ∨
      (s.pc ≠ 0xff#8 ∧ r.kind = .arithmeticFault ∧
        divisor
          (decodeWord s.params.opcodeMap (readCell s.mem s.pc.toNat) (readCell s.mem (s.pc.toNat + 1))) s = some 0#8 ∧
        (s.params.opcodeMap = defaultOpcodeMap →
          0x40 ≤ (readCell s.mem s.pc.toNat).toNat ∧ (readCell s.mem s.pc.toNat).toNat ≤ 0x47))

/-- The set is that of 40_engine_cycle.md section 4, with the spec's decisions D12 and D16. -/
def Obligations.FlagFrame : Prop :=
  ∀ (i : Instr) (s t : State), exec i s = .next t →
    (flagProducing i = false → t.f = s.f) ∧ (t.f = s.f ∨ ∃ w, t.f = applyFlags w s.f) ∧
    ∀ k, 3 ≤ k → t.f.getLsbD k = s.f.getLsbD k

/-- The register table of 10_state.md section 3; the opcodes are the spec's decision D3. -/
def Obligations.RegisterFrame : Prop :=
  ∀ (i : Instr) (s t : State), exec i s = .next t →
    (writesX i = false → t.x = s.x) ∧ (writesY i = false → t.y = s.y) ∧ (writesIo i = false → t.io = s.io) ∧
    (writesSp i = false → t.sp = s.sp) ∧ t.params = s.params

/-- `storeAddress` is the address each meaning stores to: the immediate, X, Y or SP. -/
def Obligations.MemoryFrame : Prop :=
  ∀ (i : Instr) (s t : State), exec i s = .next t →
    (∀ a, storeAddress i s = some a → ∀ b, b ≠ a.toNat → readCell t.mem b = readCell s.mem b) ∧
    (storeAddress i s = none → ∀ b, readCell t.mem b = readCell s.mem b)

/-- The spec's decision D32. -/
def Obligations.TracingAndPacingHaveNoEffect : Prop :=
  ∀ (s : State) (tracing : Bool) (hz : Nat),
    (∀ t, step s = .next t → step (retime tracing hz s) = .next (retime tracing hz t)) ∧
    (∀ e, step s = .fault e → step (retime tracing hz s) = .fault e) ∧
    ∀ e, step s ≠ .refused e

/-- The spec's decisions D12, D18 and D23. -/
def Obligations.TrapStaysSet : Prop :=
  ∀ s t : State, Reaches s t → (s.f.getLsbD 7 = true → t.f.getLsbD 7 = true) ∧
    (∀ k, 3 ≤ k → k ≤ 6 → t.f.getLsbD k = s.f.getLsbD k) ∧ t.params = s.params

/-- The canonical forms are the model's (log 2 and 5); the rest rests on the spec's decisions D1, D12, D18 and D20. -/
def Obligations.StepKeepsInvariant : Prop :=
  ∀ s t : State, Inv s → step s = .next t → Inv t

/-- The spec's decisions D23 and D24. That the actions are functions between steps is the model's (log 8). -/
def Obligations.HostKeepsInvariant : Prop :=
  (∀ (s : State) (a : HostAction), Inv s → Inv (hostAct a s)) ∧
  ∀ (s : State) (v : Byte),
    (∃ f, hostAct .setTrap s = { s with f := f } ∧ ∀ k, k < 8 → f.getLsbD k = (decide (k = 7) || s.f.getLsbD k)) ∧
    hostAct (.writeIO v) s = { s with io := v } ∧ hostAct .observe s = s ∧ hostAct .cutOff s = s

/-- The spec's decisions D30, D31 and D38. HALT_BEHAVIOR, tracing and frequency of `defaultParams` are the model's
choice (log 3 and 4). -/
def Obligations.ResetValues : Prop :=
  (State.reset.x = 0#8 ∧ State.reset.y = 0#8 ∧ State.reset.io = 0#8 ∧ State.reset.sp = 0#8 ∧ State.reset.pc = 0#8 ∧
    State.reset.f = 0#8 ∧ State.reset.run = .running ∧ memSize State.reset.params = 256 ∧
    State.reset.params.opcodeMap = defaultOpcodeMap) ∧
  ((List.range 6).map (readCell State.reset.mem) = [0x00#8, 0xaa#8, 0x08#8, 0xd0#8, 0xe4#8, 0xe8#8]) ∧
  (∀ a, 6 ≤ a → readCell State.reset.mem a = 0xff#8) ∧
  construct defaultParams bootImage = .next State.reset

/-- The premise of `StepKeepsInvariant` holds where a run begins. -/
def Obligations.ResetHasInvariant : Prop :=
  Inv State.reset

/-- The spec's decisions D30 and D37. Which maps are legal is read from the source's ranges (log 2). -/
def Obligations.ConstructionFillsMemory : Prop :=
  ∀ (p : Params) (image : List Byte),
    (legalMap p.opcodeMap = false → construct p image = .refused .badOpcodeMap) ∧
    (legalMap p.opcodeMap = true → image = [] ∨ memSize p < image.length →
      construct p image = .refused .badBootImage) ∧
    (legalMap p.opcodeMap = true → image ≠ [] → image.length ≤ memSize p → ∃ t, construct p image = .next t ∧
      t = { State.reset with mem := t.mem, params := p } ∧
      (∀ a, a < memSize p → readCell t.mem a = if h : a < image.length then image[a] else 0xff#8) ∧ Inv t)

/-- The spec's decision D39. Under the default map the opcode of ST [imm], X is 0x09 (D5). -/
def Obligations.StoredByteIsFetched : Prop :=
  ∀ (s : State) (imm : Byte), s.run = .running → s.pc.toNat + 1 < memSize s.params → imm.toNat < memSize s.params →
    decodeWord s.params.opcodeMap (readCell s.mem s.pc.toNat) (readCell s.mem (s.pc.toNat + 1)) = .stAtImmX imm →
    ∃ t, step s = .next t ∧ t = { s with mem := t.mem, pc := s.pc + 2#8 } ∧ readCell t.mem imm.toNat = s.x ∧
      (t.pc = imm → t.pc.toNat + 1 < memSize t.params →
        step t = exec (decodeWord s.params.opcodeMap s.x (readCell t.mem (t.pc.toNat + 1))) t)
end

