-- ==== Sys2Proof/Laws/Flags.lean ====
section
/-! SUPPORT. What each flag is after the flag-update policy, and the conditional test. -/

namespace Sys2Proof.Machine

theorem bitIf_getLsbD (b : Bool) (n i : Nat) (hn : n < 8) : (bitIf b n).getLsbD i = (b && decide (i = n)) := by
  cases b
  · simp [bitIf]
  · by_cases h : i = n
    · subst h; simp [bitIf, hn]
    · by_cases hi : i < n
      · simp [bitIf, BitVec.getLsbD_shiftLeft, hi, h]
      · simp [bitIf, BitVec.getLsbD_shiftLeft, hi, h, show i - n ≠ 0 by omega]

/-- Every bit of the flags after the policy: O, Z and C come from `t`, bits 3 to 7 are kept. -/
theorem applyFlags_getLsbD (t : Wide) (f : Byte) (i : Nat) :
    (applyFlags t f).getLsbD i =
      if i = 0 then decide (highByte t ≠ 0#8) else if i = 1 then decide (lowByte t = 0#8)
      else if i = 2 then t.getLsbD 8 else f.getLsbD i := by
  have hmask : (0xf8#8).getLsbD i = (decide (3 ≤ i) && decide (i < 8)) := by
    by_cases hi : i < 8
    · revert i; decide
    · simp [hi, BitVec.getLsbD_of_ge _ _ (show 8 ≤ i by omega)]
  simp only [applyFlags, BitVec.getLsbD_or, BitVec.getLsbD_and, bitIf_getLsbD _ 0 i (by omega),
    bitIf_getLsbD _ 1 i (by omega), bitIf_getLsbD _ 2 i (by omega), hmask]
  by_cases h0 : i = 0
  · simp [h0]
  · by_cases h1 : i = 1
    · simp [h1]
    · by_cases h2 : i = 2
      · simp [h2]
      · by_cases h8 : i < 8
        · simp [h0, h1, h2, h8, show 3 ≤ i by omega]
        · simp [h0, h1, h2, h8, BitVec.getLsbD_of_ge f i (by omega)]

@[simp] theorem flagSet_o_applyFlags (t : Wide) (f : Byte) : flagSet .o (applyFlags t f) = decide (highByte t ≠ 0#8) := by
  rw [flagSet, applyFlags_getLsbD]; rfl

@[simp] theorem flagSet_z_applyFlags (t : Wide) (f : Byte) : flagSet .z (applyFlags t f) = decide (lowByte t = 0#8) := by
  rw [flagSet, applyFlags_getLsbD]; rfl

@[simp] theorem flagSet_c_applyFlags (t : Wide) (f : Byte) : flagSet .c (applyFlags t f) = t.getLsbD 8 := by
  rw [flagSet, applyFlags_getLsbD]; rfl

@[simp] theorem flagSet_t_applyFlags (t : Wide) (f : Byte) : flagSet .t (applyFlags t f) = flagSet .t f := by
  rw [flagSet, applyFlags_getLsbD]; rfl

theorem lowByte_toNat (t : Wide) : (lowByte t).toNat = t.toNat % 256 := by
  simp [lowByte, BitVec.extractLsb'_toNat]

theorem highByte_toNat (t : Wide) : (highByte t).toNat = t.toNat / 256 := by
  have := t.isLt
  simp only [highByte, BitVec.extractLsb'_toNat, Nat.shiftRight_eq_div_pow]
  omega

theorem wide_toNat (n : Int) : (wide n).toNat = (n % 65536).toNat := by
  simp [wide, BitVec.toNat_ofInt]

/-- `Cond` never holds of a zero Flags byte, whatever the polarity (40_engine_cycle.md R130). -/
@[simp] theorem condHolds_zero (fl : Flag) (p : Polarity) : condHolds fl p 0#8 = false := by cases p <;> rfl

end Sys2Proof.Machine
end

