-- ==== Sys2Proof/Laws/Alu.lean ====
section
/-! SUPPORT. The numeric value of each 16-bit result, so that a proof about flags need not unfold the operation. -/

namespace Sys2Proof.Machine

theorem addWide_toNat (a b : Byte) : (addWide a b).toNat = a.toNat + b.toNat := by
  rw [addWide, wide_toNat]
  have := a.isLt
  have := b.isLt
  omega

theorem subWide_toNat (a b : Byte) : (subWide a b).toNat = (a.toNat + 65536 - b.toNat) % 65536 := by
  rw [subWide, wide_toNat]
  have := a.isLt
  have := b.isLt
  omega

theorem mulWide_toNat (a b : Byte) : (mulWide a b).toNat = a.toNat * b.toNat := by
  rw [mulWide, wide_toNat]
  have : a.toNat * b.toNat ≤ 255 * 255 := Nat.mul_le_mul (Nat.le_of_lt_succ a.isLt) (Nat.le_of_lt_succ b.isLt)
  rw [show (a.toNat : Int) * b.toNat = (a.toNat * b.toNat : Nat) by push_cast; rfl]
  omega

theorem divWide_toNat (a b : Byte) : (divWide a b).toNat = a.toNat / b.toNat := by
  have := a.isLt
  have := Nat.div_le_self a.toNat b.toNat
  rw [divWide, BitVec.toNat_ofNat]
  exact Nat.mod_eq_of_lt (by omega)

theorem andWide_toNat (a b : Byte) : (andWide a b).toNat = a.toNat &&& b.toNat := by
  have := (a &&& b).isLt
  simp only [andWide, BitVec.toNat_setWidth, BitVec.toNat_and] at *
  omega

theorem orWide_toNat (a b : Byte) : (orWide a b).toNat = a.toNat ||| b.toNat := by
  have := (a ||| b).isLt
  simp only [orWide, BitVec.toNat_setWidth, BitVec.toNat_or] at *
  omega

theorem xorWide_toNat (a b : Byte) : (xorWide a b).toNat = a.toNat ^^^ b.toNat := by
  have := (a ^^^ b).isLt
  simp only [xorWide, BitVec.toNat_setWidth, BitVec.toNat_xor] at *
  omega

theorem incWide_toNat (a : Byte) : (incWide a).toNat = a.toNat + 1 := by
  rw [incWide, wide_toNat]
  have := a.isLt
  omega

theorem decWide_toNat (a : Byte) : (decWide a).toNat = (a.toNat + 65535) % 65536 := by
  rw [decWide, wide_toNat]
  have := a.isLt
  omega

@[simp] theorem clrWide_toNat (a : Byte) : (clrWide a).toNat = 0 := by
  rw [clrWide, xorWide_toNat, Nat.xor_self]

theorem relAdd_toNat (pc v : Byte) : (relAdd pc v).toNat = (((pc.toNat : Int) + v.toInt) % 65536).toNat := by
  rw [relAdd, wide_toNat]

theorem lowByte_eq_ofNat (t : Wide) : lowByte t = BitVec.ofNat 8 t.toNat :=
  BitVec.eq_of_toNat_eq (by rw [lowByte_toNat, BitVec.toNat_ofNat])

end Sys2Proof.Machine
end

