-- ==== Sys2Proof/Laws/Decode.lean ====
section
/-! SUPPORT. What an OPCODE_MAP has at an opcode: the default map is the table of 30_encoding.md R104, and a legal map keeps the
fixed opcodes (R94) and the family ranges (R93). -/

namespace Sys2Proof

@[simp] theorem rowOf_default (op : Byte) : rowOf defaultOpcodeMap op = tableRow op := rfl

theorem tableRow_opcode {op : Byte} {r : OpcodeRow} (h : tableRow op = some r) : r.opcode = op := by
  simpa using List.find?_some h

theorem decodeWord_some {m : OpcodeMap} {op : Byte} {r : OpcodeRow} (h : rowOf m op = some r) (imm : Byte) :
    decodeWord m op imm = r.build imm := by simp only [decodeWord, h]

theorem decodeWord_none {m : OpcodeMap} {op : Byte} (h : rowOf m op = none) (imm : Byte) :
    decodeWord m op imm = .unimplemented op := by simp only [decodeWord, h]

theorem widthOfOpcode_some {m : OpcodeMap} {op : Byte} {r : OpcodeRow} (h : rowOf m op = some r) :
    widthOfOpcode m op = r.width := by simp only [widthOfOpcode, h]

theorem widthOfOpcode_none {m : OpcodeMap} {op : Byte} (h : rowOf m op = none) : widthOfOpcode m op = 1 := by
  simp only [widthOfOpcode, h]

/-- A map has at an opcode what R104 has there, or one legal cell of the list says what it has. -/
theorem rowOf_cases {m : OpcodeMap} (hm : legalMap m = true) (op : Byte) :
    rowOf m op = tableRow op ∨
    ∃ c ∈ m, c.opcode = op ∧ legalCell c = true ∧ rowOf m op = c.sameAs.bind tableRow := by
  unfold rowOf mapCell
  cases h : m.find? fun c => c.opcode == op with
  | none => exact .inl rfl
  | some c =>
    have hc := List.mem_of_find?_eq_some h
    simp only [legalMap, Bool.and_eq_true, List.all_eq_true] at hm
    exact .inr ⟨c, hc, by simpa using List.find?_some h, hm.2 c hc, rfl⟩

/-- A legal map keeps the fixed opcodes. -/
theorem rowOf_fixed {m : OpcodeMap} (hm : legalMap m = true) {op : Byte} (h : op ∈ fixedOpcodes) :
    rowOf m op = tableRow op := by
  rcases rowOf_cases hm op with h' | ⟨c, -, rfl, hl, -⟩
  · exact h'
  · simp [legalCell, h] at hl

/-- What a legal map has at an opcode is what R104 has there, or is of the same family, or is nothing. -/
theorem rowOf_family {m : OpcodeMap} (hm : legalMap m = true) (op : Byte) :
    rowOf m op = tableRow op ∨ rowOf m op = none ∨
    ∃ k r, sameFamily op k = true ∧ tableRow k = some r ∧ rowOf m op = some r := by
  rcases rowOf_cases hm op with h | ⟨c, -, rfl, hl, h⟩
  · exact .inl h
  · cases hc : c.sameAs with
    | none => exact .inr (.inl (by rw [h, hc]; rfl))
    | some k =>
      simp only [legalCell, hc, Bool.and_eq_true, decide_eq_true_eq] at hl
      obtain ⟨r, hr⟩ := Option.isSome_iff_exists.1 hl.2.1.2
      exact .inr (.inr ⟨k, r, hl.2.2, hr, by rw [h, hc]; exact hr⟩)

end Sys2Proof
end

