-- ==== Sys2Proof/Laws/Memory.lean ====
section
/-! SUPPORT. The laws of memory: a read after a write, and that every write keeps the canonical form. -/

namespace Sys2Proof.Machine

@[simp] theorem readCell_nil (a : Nat) : readCell [] a = resetByte a := rfl

theorem readCell_cons (k : Nat) (v : Byte) (m : Memory) (a : Nat) :
    readCell ((k, v) :: m) a = if k = a then v else readCell m a := rfl

theorem readCell_dropCell_same (m : Memory) (a : Nat) : readCell (dropCell m a) a = resetByte a := by
  induction m with
  | nil => rfl
  | cons c m ih =>
    by_cases h : c.1 = a
    · simpa [dropCell, List.filter_cons, h] using ih
    · simpa [dropCell, List.filter_cons, h, readCell] using ih

theorem readCell_dropCell_other (m : Memory) {a b : Nat} (hb : b ≠ a) : readCell (dropCell m a) b = readCell m b := by
  induction m with
  | nil => rfl
  | cons c m ih =>
    by_cases h : c.1 = a
    · have hc : c.1 ≠ b := fun e => hb (e.symm.trans h)
      simpa [dropCell, List.filter_cons, h, readCell, hc, Ne.symm hb] using ih
    · by_cases hc : c.1 = b
      · simp [dropCell, readCell, hc, hb]
      · simpa [dropCell, List.filter_cons, h, readCell, hc] using ih

theorem readCell_insertCell (m : Memory) (a b : Nat) (v : Byte) (hm : ∀ c ∈ m, c.1 ≠ a) :
    readCell (insertCell a v m) b = if a = b then v else readCell m b := by
  induction m with
  | nil => rfl
  | cons c m ih =>
    obtain ⟨k, w⟩ := c
    have hk : k ≠ a := hm (k, w) List.mem_cons_self
    by_cases hlt : a < k
    · simp [insertCell, hlt, readCell_cons]
    · simp only [insertCell, hlt, if_false, readCell_cons, ih fun c hc => hm c (List.mem_cons_of_mem _ hc)]
      by_cases hkb : k = b
      · simp [hkb, show a ≠ b from fun e => hk (hkb.trans e.symm)]
      · simp [hkb]

theorem dropCell_ne (m : Memory) (a : Nat) : ∀ c ∈ dropCell m a, c.1 ≠ a := by
  intro c hc
  simpa [dropCell] using (List.mem_filter.mp hc).2

/-- What a write does to every read: the written address reads the value, every other address reads as before. -/
theorem readCell_writeCell (m : Memory) (a b : Nat) (v : Byte) :
    readCell (writeCell m a v) b = if b = a then v else readCell m b := by
  unfold writeCell
  by_cases hv : v = resetByte a
  · by_cases hb : b = a
    · simp [hv, hb, readCell_dropCell_same]
    · simp [hv, hb, readCell_dropCell_other m hb]
  · rw [if_neg hv, readCell_insertCell _ _ _ _ (dropCell_ne m a)]
    by_cases hb : b = a
    · simp [hb]
    · simp [hb, Ne.symm hb, readCell_dropCell_other m hb]

@[simp] theorem readCell_writeCell_same (m : Memory) (a : Nat) (v : Byte) : readCell (writeCell m a v) a = v := by
  simp [readCell_writeCell]

theorem readCell_writeCell_other (m : Memory) {a b : Nat} (v : Byte) (hb : b ≠ a) :
    readCell (writeCell m a v) b = readCell m b := by
  simp [readCell_writeCell, hb]

/-- The canonical form, said with the list predicates of the library. -/
theorem addressesRise_iff (m : Memory) : addressesRise m = true ↔ (m.map Prod.fst).Pairwise (· < ·) := by
  induction m with
  | nil => simp [addressesRise]
  | cons c m ih =>
    cases m with
    | nil => simp [addressesRise]
    | cons d m =>
      simp only [addressesRise, Bool.and_eq_true, decide_eq_true_eq, ih, List.map_cons, List.pairwise_cons,
        List.mem_cons, forall_eq_or_imp]
      constructor
      · rintro ⟨hcd, hd, hm⟩
        exact ⟨⟨hcd, fun x hx => hcd.trans (hd x hx)⟩, hd, hm⟩
      · rintro ⟨⟨hcd, _⟩, hd, hm⟩
        exact ⟨hcd, hd, hm⟩

theorem wf_iff (m : Memory) :
    Memory.wf m = true ↔ (m.map Prod.fst).Pairwise (· < ·) ∧ ∀ c ∈ m, c.2 ≠ resetByte c.1 := by
  simp [Memory.wf, addressesRise_iff]

/-- An entry of an inserted list is the new one or one of the old. -/
theorem mem_insertCell (m : Memory) (a : Nat) (v : Byte) (c : Host.Cell) :
    c ∈ insertCell a v m ↔ c = (a, v) ∨ c ∈ m := by
  induction m with
  | nil => simp [insertCell]
  | cons d m ih =>
    obtain ⟨k, w⟩ := d
    by_cases h : a < k
    · simp [insertCell, h]
    · simp only [insertCell, h, if_false, List.mem_cons, ih]
      tauto

theorem insertCell_pairwise (m : Memory) (a : Nat) (v : Byte) (hm : (m.map Prod.fst).Pairwise (· < ·))
    (hne : ∀ c ∈ m, c.1 ≠ a) : ((insertCell a v m).map Prod.fst).Pairwise (· < ·) := by
  induction m with
  | nil => simp [insertCell]
  | cons d m ih =>
    obtain ⟨k, w⟩ := d
    simp only [List.map_cons, List.pairwise_cons] at hm
    by_cases h : a < k
    · rw [insertCell, if_pos h, List.map_cons, List.map_cons, List.pairwise_cons, List.pairwise_cons]
      exact ⟨List.forall_mem_cons.mpr ⟨h, fun x hx => h.trans (hm.1 x hx)⟩, hm⟩
    · have hk : k ≠ a := hne (k, w) List.mem_cons_self
      simp only [insertCell, h, if_false, List.map_cons, List.pairwise_cons]
      refine ⟨fun x hx => ?_, ih hm.2 fun c hc => hne c (List.mem_cons_of_mem _ hc)⟩
      obtain ⟨c, hc, rfl⟩ := List.mem_map.mp hx
      rcases (mem_insertCell m a v c).mp hc with rfl | hc
      · show k < a
        omega
      · exact hm.1 _ (List.mem_map.mpr ⟨c, hc, rfl⟩)

theorem dropCell_pairwise (m : Memory) (a : Nat) (hm : (m.map Prod.fst).Pairwise (· < ·)) :
    ((dropCell m a).map Prod.fst).Pairwise (· < ·) :=
  hm.sublist (List.filter_sublist.map _)

/-- An entry of a written memory is the new one or an old one of another address. -/
theorem mem_writeCell (m : Memory) (a : Nat) (v : Byte) (c : Host.Cell) (hc : c ∈ writeCell m a v) :
    (c = (a, v) ∧ v ≠ resetByte a) ∨ c ∈ m := by
  unfold writeCell at hc
  by_cases hv : v = resetByte a
  · rw [if_pos hv] at hc
    exact .inr (List.mem_filter.mp hc).1
  · rw [if_neg hv] at hc
    rcases (mem_insertCell _ a v c).mp hc with h | h
    · exact .inl ⟨h, hv⟩
    · exact .inr (List.mem_filter.mp h).1

/-- A write keeps the canonical form of memory. -/
theorem writeCell_wf (m : Memory) (a : Nat) (v : Byte) (hm : Memory.wf m = true) : Memory.wf (writeCell m a v) = true := by
  rw [wf_iff] at hm ⊢
  refine ⟨?_, fun c hc => ?_⟩
  · unfold writeCell
    split
    · exact dropCell_pairwise m a hm.1
    · exact insertCell_pairwise _ a v (dropCell_pairwise m a hm.1) (dropCell_ne m a)
  · rcases mem_writeCell m a v c hc with ⟨rfl, hv⟩ | h
    · exact hv
    · exact hm.2 c h

/-- Equal reads make canonical memories equal data, one address at a time: the head entry of each is the first address at
which it differs from its reset content. -/
theorem readCell_of_mem (m : Memory) (hm : Memory.wf m = true) (c : Host.Cell) (hc : c ∈ m) : readCell m c.1 = c.2 := by
  induction m with
  | nil => cases hc
  | cons d m ih =>
    rw [wf_iff] at hm
    simp only [List.map_cons, List.pairwise_cons] at hm
    rcases List.mem_cons.mp hc with rfl | h
    · simp [readCell]
    · have hlt : d.1 < c.1 := hm.1.1 _ (List.mem_map.mpr ⟨c, h, rfl⟩)
      have := ih ((wf_iff m).mpr ⟨hm.1.2, fun e he => hm.2 e (List.mem_cons_of_mem _ he)⟩) h
      simpa [readCell, show d.1 ≠ c.1 by omega] using this

/-- The construction image reads as itself within the `n` cells of memory. -/
theorem imageMemory_wf (n : Nat) (image : List Byte) : Memory.wf (imageMemory n image) = true := by
  rw [wf_iff]
  refine ⟨?_, fun c hc => by simpa [imageMemory] using (List.mem_filter.mp hc).2⟩
  have hsub : ((imageMemory n image).map Prod.fst).Sublist
      (((List.range n).map fun a => (a, image.getD a fillByte)).map Prod.fst) := List.filter_sublist.map _
  refine List.Pairwise.sublist hsub ?_
  simpa [List.map_map, Function.comp_def] using List.pairwise_lt_range

end Sys2Proof.Machine
end

