-- ==== Sys2Proof/Laws/State.lean ====
section
/-! SUPPORT. One lemma for each field of the state under each named update. -/

namespace Sys2Proof.Machine

section raiseFault
variable (o : Option Byte) (r : Raise) (s : State)
@[simp] theorem raiseFault_x : (raiseFault o r s).x = s.x := rfl
@[simp] theorem raiseFault_y : (raiseFault o r s).y = s.y := rfl
@[simp] theorem raiseFault_io : (raiseFault o r s).io = s.io := rfl
@[simp] theorem raiseFault_sp : (raiseFault o r s).sp = s.sp := rfl
@[simp] theorem raiseFault_pc : (raiseFault o r s).pc = s.pc := rfl
@[simp] theorem raiseFault_f : (raiseFault o r s).f = s.f := rfl
@[simp] theorem raiseFault_mem : (raiseFault o r s).mem = s.mem := rfl
@[simp] theorem raiseFault_run : (raiseFault o r s).run = .faulted (faultRecord o s.pc r) := rfl
@[simp] theorem raiseFault_params : (raiseFault o r s).params = s.params := rfl
end raiseFault

section faultRecord
variable (o : Option Byte) (pc : Byte)
@[simp] theorem faultRecord_memory (a : Nat) : faultRecord o pc (.memory a) = ⟨.memoryFault, o, pc, a⟩ := rfl
@[simp] theorem faultRecord_arithmetic (b : Byte) :
    faultRecord o pc (.arithmetic b) = ⟨.arithmeticFault, o, pc, b.toNat⟩ := rfl
@[simp] theorem faultRecord_pc (r : Raise) : (faultRecord o pc r).pc = pc := by cases r <;> rfl
@[simp] theorem faultRecord_opcode (r : Raise) : (faultRecord o pc r).opcode = o := by cases r <;> rfl
end faultRecord

section advancePc
variable (w : Nat) (s : State)
@[simp] theorem advancePc_x : (advancePc w s).x = s.x := rfl
@[simp] theorem advancePc_y : (advancePc w s).y = s.y := rfl
@[simp] theorem advancePc_io : (advancePc w s).io = s.io := rfl
@[simp] theorem advancePc_sp : (advancePc w s).sp = s.sp := rfl
@[simp] theorem advancePc_pc : (advancePc w s).pc = s.pc + BitVec.ofNat 8 w := rfl
@[simp] theorem advancePc_f : (advancePc w s).f = s.f := rfl
@[simp] theorem advancePc_mem : (advancePc w s).mem = s.mem := rfl
@[simp] theorem advancePc_run : (advancePc w s).run = s.run := rfl
@[simp] theorem advancePc_params : (advancePc w s).params = s.params := rfl
end advancePc

section effects
variable (a : Byte) (s : State)
@[simp] theorem fallThrough_state : (fallThrough s).state = s := rfl
@[simp] theorem fallThrough_pcAssigned : (fallThrough s).pcAssigned = false := rfl
@[simp] theorem assignPc_state : (assignPc a s).state = { s with pc := a } := rfl
@[simp] theorem assignPc_pcAssigned : (assignPc a s).pcAssigned = true := rfl
end effects

section hostAct
variable (v : Byte) (s : State)
@[simp] theorem hostAct_setTrap : hostAct .setTrap s = { s with f := withTrap s.f } := rfl
@[simp] theorem hostAct_writeIO : hostAct (.writeIO v) s = { s with io := v } := rfl
@[simp] theorem hostAct_observe : hostAct .observe s = s := rfl
@[simp] theorem hostAct_cutOff : hostAct .cutOff s = s := rfl
end hostAct

end Sys2Proof.Machine
end

