-- ==== Sys2Proof/Laws/Ops.lean ====
section
/-! SUPPORT. For each shared operation, one lemma that says what it does, so that no later proof unfolds it. -/

namespace Sys2Proof.Machine

theorem memRead_eq_ok {a : Nat} {s : State} {v : Byte} :
    memRead a s = .ok v ↔ a < memSize s.params ∧ v = readCell s.mem a := by
  unfold memRead; split <;> simp_all [eq_comm]

theorem memRead_eq_error {a : Nat} {s : State} {r : Raise} :
    memRead a s = .error r ↔ memSize s.params ≤ a ∧ r = .memory a := by
  unfold memRead; split <;> simp_all [eq_comm]

theorem memRead_of_lt {a : Nat} {s : State} (h : a < memSize s.params) : memRead a s = .ok (readCell s.mem a) :=
  if_pos h

theorem memRead_of_ge {a : Nat} {s : State} (h : memSize s.params ≤ a) : memRead a s = .error (.memory a) :=
  if_neg (by omega)

theorem memWrite_eq_ok {a : Nat} {v : Byte} {s t : State} :
    memWrite a v s = .ok t ↔ a < memSize s.params ∧ t = { s with mem := writeCell s.mem a v } := by
  unfold memWrite; split <;> simp_all [eq_comm]

theorem memWrite_eq_error {a : Nat} {v : Byte} {s : State} {r : Raise} :
    memWrite a v s = .error r ↔ memSize s.params ≤ a ∧ r = .memory a := by
  unfold memWrite; split <;> simp_all [eq_comm]

theorem memWrite_of_lt {a : Nat} {v : Byte} {s : State} (h : a < memSize s.params) :
    memWrite a v s = .ok { s with mem := writeCell s.mem a v } := if_pos h

theorem memWrite_of_ge {a : Nat} {v : Byte} {s : State} (h : memSize s.params ≤ a) :
    memWrite a v s = .error (.memory a) := if_neg (by omega)

theorem push_of_lt {v : Byte} {s : State} (h : s.sp.toNat < memSize s.params) :
    push v s = .ok { s with mem := writeCell s.mem s.sp.toNat v, sp := s.sp + 1#8 } := by
  simp [push, memWrite_of_lt h, Except.map]

theorem push_of_ge {v : Byte} {s : State} (h : memSize s.params ≤ s.sp.toNat) :
    push v s = .error (.memory s.sp.toNat) := by
  simp [push, memWrite_of_ge h, Except.map]

theorem push_cases (v : Byte) (s : State) :
    (s.sp.toNat < memSize s.params ∧
      push v s = .ok { s with mem := writeCell s.mem s.sp.toNat v, sp := s.sp + 1#8 }) ∨
    (memSize s.params ≤ s.sp.toNat ∧ push v s = .error (.memory s.sp.toNat)) := by
  rcases Nat.lt_or_ge s.sp.toNat (memSize s.params) with h | h
  · exact .inl ⟨h, push_of_lt h⟩
  · exact .inr ⟨h, push_of_ge h⟩

theorem pop_of_lt {s : State} (h : (s.sp - 1#8).toNat < memSize s.params) :
    pop s = .ok (readCell s.mem (s.sp - 1#8).toNat, { s with sp := s.sp - 1#8 }) := by
  simp only [pop, memRead_of_lt (s := { s with sp := s.sp - 1#8 }) h, Except.map]

theorem pop_of_ge {s : State} (h : memSize s.params ≤ (s.sp - 1#8).toNat) :
    pop s = .error (.memory (s.sp - 1#8).toNat) := by
  simp only [pop, memRead_of_ge (s := { s with sp := s.sp - 1#8 }) h, Except.map]

theorem pop_cases (s : State) :
    ((s.sp - 1#8).toNat < memSize s.params ∧
      pop s = .ok (readCell s.mem (s.sp - 1#8).toNat, { s with sp := s.sp - 1#8 })) ∨
    (memSize s.params ≤ (s.sp - 1#8).toNat ∧ pop s = .error (.memory (s.sp - 1#8).toNat)) := by
  rcases Nat.lt_or_ge (s.sp - 1#8).toNat (memSize s.params) with h | h
  · exact .inl ⟨h, pop_of_lt h⟩
  · exact .inr ⟨h, pop_of_ge h⟩

/-- Everything the fetch can do (40_engine_cycle.md R122, R123). -/
theorem fetch_cases (s : State) :
    (memSize s.params ≤ s.pc.toNat ∧ fetch s = .error (none, .memory s.pc.toNat)) ∨
    (s.pc.toNat < memSize s.params ∧ memSize s.params ≤ s.pc.toNat + 1 ∧
      fetch s = .error (some (readCell s.mem s.pc.toNat), .memory (s.pc.toNat + 1))) ∨
    (s.pc.toNat + 1 < memSize s.params ∧
      fetch s = .ok (readCell s.mem s.pc.toNat, readCell s.mem (s.pc.toNat + 1))) := by
  rcases Nat.lt_or_ge s.pc.toNat (memSize s.params) with h | h
  · rcases Nat.lt_or_ge (s.pc.toNat + 1) (memSize s.params) with h' | h'
    · exact .inr (.inr ⟨h', by simp [fetch, memRead_of_lt h, memRead_of_lt h']⟩)
    · exact .inr (.inl ⟨h, h', by simp [fetch, memRead_of_lt h, memRead_of_ge h']⟩)
  · exact .inl ⟨h, by simp [fetch, memRead_of_ge h]⟩

section complete
variable (i : Instr) (s : State)
@[simp] theorem complete_error (r : Raise) : complete i s (.error r) = .next (raiseFault (some (opcodeAtPc s)) r s) := rfl

/-- An instruction that assigned PC ends as it left the state. -/
@[simp] theorem complete_assigned (a : Byte) (t : State) : complete i s (.ok (assignPc a t)) = .next { t with pc := a } := by
  simp [complete]

/-- An instruction that did not assign PC and left the machine running ends with PC advanced by its width. -/
theorem complete_fallThrough {t : State} (h : t.run = .running) :
    complete i s (.ok (fallThrough t)) = .next (advancePc (widthOf i) t) := by
  simp [complete, h]

/-- An instruction after which the machine does not run ends without an advance. -/
theorem complete_notRunning {t : State} (h : t.run ≠ .running) : complete i s (.ok (fallThrough t)) = .next t := by
  simp [complete, h]
end complete

/-- The address of the cell a destination names, if it names one. -/
def dstAddr : Dst → State → Option Nat
  | .atImm a, _ => some a.toNat
  | .atX, s => some s.x.toNat
  | .atY, s => some s.y.toNat
  | .x, _ => none
  | .y, _ => none
  | .sp, _ => none

/-- Everything a write to a destination can do. -/
theorem writeTo_cases (d : Dst) (v : Byte) (s : State) :
    (d = .x ∧ writeTo d v s = .ok { s with x := v }) ∨ (d = .y ∧ writeTo d v s = .ok { s with y := v }) ∨
    (d = .sp ∧ writeTo d v s = .ok { s with sp := v }) ∨
    (∃ a, dstAddr d s = some a ∧ a < memSize s.params ∧ writeTo d v s = .ok { s with mem := writeCell s.mem a v }) ∨
    (∃ a, dstAddr d s = some a ∧ memSize s.params ≤ a ∧ writeTo d v s = .error (.memory a)) := by
  have cell : ∀ a, (a < memSize s.params ∧ memWrite a v s = .ok { s with mem := writeCell s.mem a v }) ∨
      (memSize s.params ≤ a ∧ memWrite a v s = .error (.memory a)) := fun a => by
    rcases Nat.lt_or_ge a (memSize s.params) with h | h
    · exact .inl ⟨h, memWrite_of_lt h⟩
    · exact .inr ⟨h, memWrite_of_ge h⟩
  cases d with
  | x => exact .inl ⟨rfl, rfl⟩
  | y => exact .inr (.inl ⟨rfl, rfl⟩)
  | sp => exact .inr (.inr (.inl ⟨rfl, rfl⟩))
  | atImm a => exact .inr (.inr (.inr ((cell a.toNat).imp (fun h => ⟨_, rfl, h⟩) fun h => ⟨_, rfl, h⟩)))
  | atX => exact .inr (.inr (.inr ((cell s.x.toNat).imp (fun h => ⟨_, rfl, h⟩) fun h => ⟨_, rfl, h⟩)))
  | atY => exact .inr (.inr (.inr ((cell s.y.toNat).imp (fun h => ⟨_, rfl, h⟩) fun h => ⟨_, rfl, h⟩)))

/-- Reading an operand either answers a byte or raises MemoryFault at an address outside memory. -/
theorem val_cases (src : Src) (s : State) :
    (∃ v, val src s = .ok v) ∨ ∃ a, memSize s.params ≤ a ∧ val src s = .error (.memory a) := by
  have cell : ∀ a, (∃ v, memRead a s = .ok v) ∨ ∃ b, memSize s.params ≤ b ∧ memRead a s = .error (.memory b) := fun a => by
    rcases Nat.lt_or_ge a (memSize s.params) with h | h
    · exact .inl ⟨_, memRead_of_lt h⟩
    · exact .inr ⟨_, h, memRead_of_ge h⟩
  cases src with
  | imm v => exact .inl ⟨v, rfl⟩
  | x => exact .inl ⟨s.x, rfl⟩
  | y => exact .inl ⟨s.y, rfl⟩
  | sp => exact .inl ⟨s.sp, rfl⟩
  | atImm a => exact cell a.toNat
  | atX => exact cell s.x.toNat
  | atY => exact cell s.y.toNat

end Sys2Proof.Machine
end

