-- ==== Sys2Proof/Laws/Exec.lean ====
section
/-! SUPPORT. What the execute stage of any instruction can do, said once: invariants follow from `exec_does` and never
unfold a meaning. -/

namespace Sys2Proof.Machine

/-- What an execute stage may have made of `s`: at most one cell written, within memory; the flags kept or set by the
flag-update policy; the run state kept, or left by HLT; the parameters kept. -/
structure Wrote (s t : State) : Prop where
  params : t.params = s.params
  mem : t.mem = s.mem ∨ ∃ a v, a < memSize s.params ∧ t.mem = writeCell s.mem a v
  flags : t.f = s.f ∨ ∃ w, t.f = applyFlags w s.f
  run : t.run = s.run ∨ (t.run = .stopped ∧ s.params.haltBehavior = .terminate) ∨
    (t.run = .halted ∧ s.params.haltBehavior = .spin ∧ flagSet .t s.f = false)

/-- What the execute stage of an instruction may answer: an effect, a memory fault at an address outside memory, or an
arithmetic fault with divisor 0. -/
def Does (s : State) : Except Raise Effect → Prop
  | .ok e => Wrote s e.state
  | .error (.memory a) => memSize s.params ≤ a
  | .error (.arithmetic b) => b = 0#8

theorem Wrote.same {s t : State} (hp : t.params = s.params) (hm : t.mem = s.mem) (hf : t.f = s.f) (hr : t.run = s.run) :
    Wrote s t := ⟨hp, .inl hm, .inl hf, .inl hr⟩

theorem move_does (d : Dst) (src : Src) (s : State) : Does s (move d src s) := by
  rcases val_cases src s with ⟨v, hv⟩ | ⟨a, ha, hv⟩
  · rcases writeTo_cases d v s with ⟨-, h⟩ | ⟨-, h⟩ | ⟨-, h⟩ | ⟨a, -, ha, h⟩ | ⟨a, -, ha, h⟩ <;>
      simp only [move, hv, h, bind, Except.bind, pure, Except.pure, Does]
    · exact .same rfl rfl rfl rfl
    · exact .same rfl rfl rfl rfl
    · exact .same rfl rfl rfl rfl
    · exact ⟨rfl, .inr ⟨a, v, ha, rfl⟩, .inl rfl, .inl rfl⟩
    · exact ha
  · simpa only [move, hv, bind, Except.bind, Does] using ha

theorem writeResult_does (d : Dst) (w : Wide) (s : State) : Does s (writeResult d w s) := by
  rcases writeTo_cases d (lowByte w) s with ⟨-, h⟩ | ⟨-, h⟩ | ⟨-, h⟩ | ⟨a, -, ha, h⟩ | ⟨a, -, ha, h⟩ <;>
    simp only [writeResult, h, bind, Except.bind, pure, Except.pure, Does]
  · exact ⟨rfl, .inl rfl, .inr ⟨w, rfl⟩, .inl rfl⟩
  · exact ⟨rfl, .inl rfl, .inr ⟨w, rfl⟩, .inl rfl⟩
  · exact ⟨rfl, .inl rfl, .inr ⟨w, rfl⟩, .inl rfl⟩
  · exact ⟨rfl, .inr ⟨a, _, ha, rfl⟩, .inr ⟨w, rfl⟩, .inl rfl⟩
  · exact ha

theorem binary_does (op : Byte → Byte → Except Raise Wide) (hop : ∀ a b r, op a b = .error r → r = .arithmetic 0#8)
    (d : Dst) (src : Src) (s : State) : Does s (binary op d src s) := by
  rcases val_cases (sourceOf d) s with ⟨a, ha⟩ | ⟨n, hn, ha⟩
  · rcases val_cases src s with ⟨b, hb⟩ | ⟨n, hn, hb⟩
    · cases ho : op a b with
      | ok w => simpa only [binary, ha, hb, ho, bind, Except.bind] using writeResult_does d w s
      | error r =>
        simp only [binary, ha, hb, ho, bind, Except.bind]
        rw [hop a b r ho]
        exact rfl
    · simpa only [binary, ha, hb, bind, Except.bind, Does] using hn
  · simpa only [binary, ha, bind, Except.bind, Does] using hn

theorem total_does (op : Byte → Byte → Wide) (d : Dst) (src : Src) (s : State) : Does s (binary (total op) d src s) :=
  binary_does _ (fun _ _ _ h => by cases h) d src s

theorem divide_does (d : Dst) (src : Src) (s : State) : Does s (binary divide d src s) := by
  refine binary_does _ (fun a b r h => ?_) d src s
  unfold divide at h
  by_cases hb : b = 0#8
  · rw [if_pos hb, hb] at h
    exact (Except.error.inj h).symm
  · rw [if_neg hb] at h
    cases h

theorem update_does (op : Byte → Wide) (d : Dst) (s : State) : Does s (update op d s) := by
  rcases val_cases (sourceOf d) s with ⟨a, ha⟩ | ⟨n, hn, ha⟩
  · simpa only [update, ha, bind, Except.bind] using writeResult_does d (op a) s
  · simpa only [update, ha, bind, Except.bind, Does] using hn

theorem call_does (w : Nat) (src : Src) (s : State) : Does s (call w src s) := by
  rcases val_cases src s with ⟨v, hv⟩ | ⟨n, hn, hv⟩
  · rcases push_cases (s.pc + BitVec.ofNat 8 w) s with ⟨h, hp⟩ | ⟨h, hp⟩ <;>
      simp only [call, hv, hp, bind, Except.bind, pure, Except.pure, Does]
    · exact ⟨rfl, .inr ⟨_, _, h, rfl⟩, .inl rfl, .inl rfl⟩
    · exact h
  · simpa only [call, hv, bind, Except.bind, Does] using hn

theorem ret_does (s : State) : Does s (ret s) := by
  rcases pop_cases s with ⟨h, hp⟩ | ⟨h, hp⟩ <;> simp only [ret, hp, bind, Except.bind, pure, Except.pure, Does]
  · exact .same rfl rfl rfl rfl
  · exact h

theorem fallThrough_does (s : State) : Does s (.ok (fallThrough s)) := .same rfl rfl rfl rfl

theorem noop_does (s : State) : Does s (noop s) := fallThrough_does s

theorem jump_does (src : Src) (s : State) : Does s (jump src s) := by
  rcases val_cases src s with ⟨v, hv⟩ | ⟨n, hn, hv⟩ <;> simp only [jump, hv, bind, Except.bind, pure, Except.pure, Does]
  · exact .same rfl rfl rfl rfl
  · exact hn

theorem jumpIf_does (fl : Flag) (p : Polarity) (src : Src) (s : State) : Does s (jumpIf fl p src s) := by
  unfold jumpIf
  split
  · exact jump_does src s
  · exact fallThrough_does s

theorem branch_does (src : Src) (s : State) : Does s (branch src s) := by
  rcases val_cases src s with ⟨v, hv⟩ | ⟨n, hn, hv⟩ <;> simp only [branch, hv, bind, Except.bind, pure, Except.pure, Does]
  · exact ⟨rfl, .inl rfl, .inr ⟨_, rfl⟩, .inl rfl⟩
  · exact hn

theorem branchIf_does (fl : Flag) (p : Polarity) (src : Src) (s : State) : Does s (branchIf fl p src s) := by
  unfold branchIf
  split
  · exact branch_does src s
  · exact fallThrough_does s

theorem pushFrom_does (src : Src) (s : State) : Does s (pushFrom src s) := by
  rcases val_cases src s with ⟨v, hv⟩ | ⟨n, hn, hv⟩
  · rcases push_cases v s with ⟨h, hp⟩ | ⟨h, hp⟩ <;>
      simp only [pushFrom, hv, hp, bind, Except.bind, pure, Except.pure, Does]
    · exact ⟨rfl, .inr ⟨_, _, h, rfl⟩, .inl rfl, .inl rfl⟩
    · exact h
  · simpa only [pushFrom, hv, bind, Except.bind, Does] using hn

theorem popTo_does (d : Dst) (s : State) : Does s (popTo d s) := by
  rcases pop_cases s with ⟨h, hp⟩ | ⟨h, hp⟩
  · rcases writeTo_cases d (readCell s.mem (s.sp - 1#8).toNat) { s with sp := s.sp - 1#8 } with
      ⟨-, hw⟩ | ⟨-, hw⟩ | ⟨-, hw⟩ | ⟨a, -, ha, hw⟩ | ⟨a, -, ha, hw⟩ <;>
      simp only [popTo, hp, hw, bind, Except.bind, pure, Except.pure, Does]
    · exact .same rfl rfl rfl rfl
    · exact .same rfl rfl rfl rfl
    · exact .same rfl rfl rfl rfl
    · exact ⟨rfl, .inr ⟨a, _, ha, rfl⟩, .inl rfl, .inl rfl⟩
    · exact ha
  · simpa only [popTo, hp, bind, Except.bind, Does] using h

theorem latchFrom_does (src : Src) (s : State) : Does s (latchFrom src s) := by
  rcases val_cases src s with ⟨v, hv⟩ | ⟨n, hn, hv⟩ <;>
    simp only [latchFrom, hv, bind, Except.bind, pure, Except.pure, Does]
  · exact .same rfl rfl rfl rfl
  · exact hn

theorem latchTo_does (d : Dst) (s : State) : Does s (latchTo d s) := by
  rcases writeTo_cases d s.io s with ⟨-, h⟩ | ⟨-, h⟩ | ⟨-, h⟩ | ⟨a, -, ha, h⟩ | ⟨a, -, ha, h⟩ <;>
    simp only [latchTo, h, bind, Except.bind, pure, Except.pure, Does]
  · exact .same rfl rfl rfl rfl
  · exact .same rfl rfl rfl rfl
  · exact .same rfl rfl rfl rfl
  · exact ⟨rfl, .inr ⟨a, _, ha, rfl⟩, .inl rfl, .inl rfl⟩
  · exact ha

theorem halt_does (s : State) : Does s (halt s) := by
  unfold halt
  split
  · next h => exact ⟨rfl, .inl rfl, .inl rfl, .inr (.inl ⟨rfl, h⟩)⟩
  · next h =>
    by_cases ht : flagSet .t s.f = true
    · rw [if_pos ht]
      exact fallThrough_does s
    · rw [if_neg ht]
      exact ⟨rfl, .inl rfl, .inl rfl, .inr (.inr ⟨rfl, h, by simpa using ht⟩)⟩

/-- What any instruction can do, in every state: its execute stage answers one of the things `Does` names, and the end of
the cycle is `complete`. -/
theorem exec_does (i : Instr) (s : State) : ∃ r, exec i s = complete i s r ∧ Does s r := by
  cases i with
  | ldXImm imm => exact ⟨move .x (.imm imm) s, rfl, move_does _ _ s⟩
  | ldXY => exact ⟨move .x .y s, rfl, move_does _ _ s⟩
  | ldXAtImm imm => exact ⟨move .x (.atImm imm) s, rfl, move_does _ _ s⟩
  | ldXAtY => exact ⟨move .x .atY s, rfl, move_does _ _ s⟩
  | ldYImm imm => exact ⟨move .y (.imm imm) s, rfl, move_does _ _ s⟩
  | ldYX => exact ⟨move .y .x s, rfl, move_does _ _ s⟩
  | ldYAtImm imm => exact ⟨move .y (.atImm imm) s, rfl, move_does _ _ s⟩
  | ldYAtX => exact ⟨move .y .atX s, rfl, move_does _ _ s⟩
  | ldSPImm imm => exact ⟨move .sp (.imm imm) s, rfl, move_does _ _ s⟩
  | stAtImmX imm => exact ⟨move (.atImm imm) .x s, rfl, move_does _ _ s⟩
  | stAtImmY imm => exact ⟨move (.atImm imm) .y s, rfl, move_does _ _ s⟩
  | stAtYX => exact ⟨move .atY .x s, rfl, move_does _ _ s⟩
  | stAtXY => exact ⟨move .atX .y s, rfl, move_does _ _ s⟩
  | ldXSP => exact ⟨move .x .sp s, rfl, move_does _ _ s⟩
  | addXImm imm => exact ⟨binary (total addWide) .x (.imm imm) s, rfl, total_does _ _ _ s⟩
  | addXY => exact ⟨binary (total addWide) .x .y s, rfl, total_does _ _ _ s⟩
  | addXAtImm imm => exact ⟨binary (total addWide) .x (.atImm imm) s, rfl, total_does _ _ _ s⟩
  | addXAtY => exact ⟨binary (total addWide) .x .atY s, rfl, total_does _ _ _ s⟩
  | addYImm imm => exact ⟨binary (total addWide) .y (.imm imm) s, rfl, total_does _ _ _ s⟩
  | addYX => exact ⟨binary (total addWide) .y .x s, rfl, total_does _ _ _ s⟩
  | addYAtImm imm => exact ⟨binary (total addWide) .y (.atImm imm) s, rfl, total_does _ _ _ s⟩
  | addYAtX => exact ⟨binary (total addWide) .y .atX s, rfl, total_does _ _ _ s⟩
  | subXImm imm => exact ⟨binary (total subWide) .x (.imm imm) s, rfl, total_does _ _ _ s⟩
  | subXY => exact ⟨binary (total subWide) .x .y s, rfl, total_does _ _ _ s⟩
  | subXAtImm imm => exact ⟨binary (total subWide) .x (.atImm imm) s, rfl, total_does _ _ _ s⟩
  | subXAtY => exact ⟨binary (total subWide) .x .atY s, rfl, total_does _ _ _ s⟩
  | subYImm imm => exact ⟨binary (total subWide) .y (.imm imm) s, rfl, total_does _ _ _ s⟩
  | subYX => exact ⟨binary (total subWide) .y .x s, rfl, total_does _ _ _ s⟩
  | subYAtImm imm => exact ⟨binary (total subWide) .y (.atImm imm) s, rfl, total_does _ _ _ s⟩
  | subYAtX => exact ⟨binary (total subWide) .y .atX s, rfl, total_does _ _ _ s⟩
  | mulXImm imm => exact ⟨binary (total mulWide) .x (.imm imm) s, rfl, total_does _ _ _ s⟩
  | mulXY => exact ⟨binary (total mulWide) .x .y s, rfl, total_does _ _ _ s⟩
  | mulXAtImm imm => exact ⟨binary (total mulWide) .x (.atImm imm) s, rfl, total_does _ _ _ s⟩
  | mulXAtY => exact ⟨binary (total mulWide) .x .atY s, rfl, total_does _ _ _ s⟩
  | mulYImm imm => exact ⟨binary (total mulWide) .y (.imm imm) s, rfl, total_does _ _ _ s⟩
  | mulYX => exact ⟨binary (total mulWide) .y .x s, rfl, total_does _ _ _ s⟩
  | mulYAtImm imm => exact ⟨binary (total mulWide) .y (.atImm imm) s, rfl, total_does _ _ _ s⟩
  | mulYAtX => exact ⟨binary (total mulWide) .y .atX s, rfl, total_does _ _ _ s⟩
  | divXImm imm => exact ⟨binary divide .x (.imm imm) s, rfl, divide_does _ _ s⟩
  | divXY => exact ⟨binary divide .x .y s, rfl, divide_does _ _ s⟩
  | divXAtImm imm => exact ⟨binary divide .x (.atImm imm) s, rfl, divide_does _ _ s⟩
  | divXAtY => exact ⟨binary divide .x .atY s, rfl, divide_does _ _ s⟩
  | divYImm imm => exact ⟨binary divide .y (.imm imm) s, rfl, divide_does _ _ s⟩
  | divYX => exact ⟨binary divide .y .x s, rfl, divide_does _ _ s⟩
  | divYAtImm imm => exact ⟨binary divide .y (.atImm imm) s, rfl, divide_does _ _ s⟩
  | divYAtX => exact ⟨binary divide .y .atX s, rfl, divide_does _ _ s⟩
  | incX => exact ⟨update incWide .x s, rfl, update_does _ _ s⟩
  | incY => exact ⟨update incWide .y s, rfl, update_does _ _ s⟩
  | incAtImm imm => exact ⟨update incWide (.atImm imm) s, rfl, update_does _ _ s⟩
  | incAtX => exact ⟨update incWide .atX s, rfl, update_does _ _ s⟩
  | incAtY => exact ⟨update incWide .atY s, rfl, update_does _ _ s⟩
  | decX => exact ⟨update decWide .x s, rfl, update_does _ _ s⟩
  | decY => exact ⟨update decWide .y s, rfl, update_does _ _ s⟩
  | decAtImm imm => exact ⟨update decWide (.atImm imm) s, rfl, update_does _ _ s⟩
  | decAtX => exact ⟨update decWide .atX s, rfl, update_does _ _ s⟩
  | decAtY => exact ⟨update decWide .atY s, rfl, update_does _ _ s⟩
  | andXImm imm => exact ⟨binary (total andWide) .x (.imm imm) s, rfl, total_does _ _ _ s⟩
  | andXY => exact ⟨binary (total andWide) .x .y s, rfl, total_does _ _ _ s⟩
  | andXAtImm imm => exact ⟨binary (total andWide) .x (.atImm imm) s, rfl, total_does _ _ _ s⟩
  | andXAtY => exact ⟨binary (total andWide) .x .atY s, rfl, total_does _ _ _ s⟩
  | andYImm imm => exact ⟨binary (total andWide) .y (.imm imm) s, rfl, total_does _ _ _ s⟩
  | andYX => exact ⟨binary (total andWide) .y .x s, rfl, total_does _ _ _ s⟩
  | andYAtImm imm => exact ⟨binary (total andWide) .y (.atImm imm) s, rfl, total_does _ _ _ s⟩
  | andYAtX => exact ⟨binary (total andWide) .y .atX s, rfl, total_does _ _ _ s⟩
  | orXImm imm => exact ⟨binary (total orWide) .x (.imm imm) s, rfl, total_does _ _ _ s⟩
  | orXY => exact ⟨binary (total orWide) .x .y s, rfl, total_does _ _ _ s⟩
  | orXAtImm imm => exact ⟨binary (total orWide) .x (.atImm imm) s, rfl, total_does _ _ _ s⟩
  | orXAtY => exact ⟨binary (total orWide) .x .atY s, rfl, total_does _ _ _ s⟩
  | orYImm imm => exact ⟨binary (total orWide) .y (.imm imm) s, rfl, total_does _ _ _ s⟩
  | orYX => exact ⟨binary (total orWide) .y .x s, rfl, total_does _ _ _ s⟩
  | orYAtImm imm => exact ⟨binary (total orWide) .y (.atImm imm) s, rfl, total_does _ _ _ s⟩
  | orYAtX => exact ⟨binary (total orWide) .y .atX s, rfl, total_does _ _ _ s⟩
  | xorXImm imm => exact ⟨binary (total xorWide) .x (.imm imm) s, rfl, total_does _ _ _ s⟩
  | xorXY => exact ⟨binary (total xorWide) .x .y s, rfl, total_does _ _ _ s⟩
  | xorXAtImm imm => exact ⟨binary (total xorWide) .x (.atImm imm) s, rfl, total_does _ _ _ s⟩
  | xorXAtY => exact ⟨binary (total xorWide) .x .atY s, rfl, total_does _ _ _ s⟩
  | xorYImm imm => exact ⟨binary (total xorWide) .y (.imm imm) s, rfl, total_does _ _ _ s⟩
  | xorYX => exact ⟨binary (total xorWide) .y .x s, rfl, total_does _ _ _ s⟩
  | xorYAtImm imm => exact ⟨binary (total xorWide) .y (.atImm imm) s, rfl, total_does _ _ _ s⟩
  | xorYAtX => exact ⟨binary (total xorWide) .y .atX s, rfl, total_does _ _ _ s⟩
  | clrX => exact ⟨update clrWide .x s, rfl, update_does _ _ s⟩
  | clrY => exact ⟨update clrWide .y s, rfl, update_does _ _ s⟩
  | clrAtImm imm => exact ⟨update clrWide (.atImm imm) s, rfl, update_does _ _ s⟩
  | clrAtX => exact ⟨update clrWide .atX s, rfl, update_does _ _ s⟩
  | clrAtY => exact ⟨update clrWide .atY s, rfl, update_does _ _ s⟩
  | callImm imm => exact ⟨call 2 (.imm imm) s, rfl, call_does _ _ s⟩
  | callX => exact ⟨call 1 .x s, rfl, call_does _ _ s⟩
  | callY => exact ⟨call 1 .y s, rfl, call_does _ _ s⟩
  | ret => exact ⟨ret s, rfl, ret_does s⟩
  | jmpImm imm => exact ⟨jump (.imm imm) s, rfl, jump_does _ s⟩
  | jmpX => exact ⟨jump .x s, rfl, jump_does _ s⟩
  | jmpY => exact ⟨jump .y s, rfl, jump_does _ s⟩
  | joImm imm => exact ⟨jumpIf .o .ifSet (.imm imm) s, rfl, jumpIf_does _ _ _ s⟩
  | joX => exact ⟨jumpIf .o .ifSet .x s, rfl, jumpIf_does _ _ _ s⟩
  | joY => exact ⟨jumpIf .o .ifSet .y s, rfl, jumpIf_does _ _ _ s⟩
  | jnoImm imm => exact ⟨jumpIf .o .ifClear (.imm imm) s, rfl, jumpIf_does _ _ _ s⟩
  | jnoX => exact ⟨jumpIf .o .ifClear .x s, rfl, jumpIf_does _ _ _ s⟩
  | jnoY => exact ⟨jumpIf .o .ifClear .y s, rfl, jumpIf_does _ _ _ s⟩
  | jzImm imm => exact ⟨jumpIf .z .ifSet (.imm imm) s, rfl, jumpIf_does _ _ _ s⟩
  | jzX => exact ⟨jumpIf .z .ifSet .x s, rfl, jumpIf_does _ _ _ s⟩
  | jzY => exact ⟨jumpIf .z .ifSet .y s, rfl, jumpIf_does _ _ _ s⟩
  | jnzImm imm => exact ⟨jumpIf .z .ifClear (.imm imm) s, rfl, jumpIf_does _ _ _ s⟩
  | jnzX => exact ⟨jumpIf .z .ifClear .x s, rfl, jumpIf_does _ _ _ s⟩
  | jnzY => exact ⟨jumpIf .z .ifClear .y s, rfl, jumpIf_does _ _ _ s⟩
  | jtImm imm => exact ⟨jumpIf .t .ifSet (.imm imm) s, rfl, jumpIf_does _ _ _ s⟩
  | jtX => exact ⟨jumpIf .t .ifSet .x s, rfl, jumpIf_does _ _ _ s⟩
  | jtY => exact ⟨jumpIf .t .ifSet .y s, rfl, jumpIf_does _ _ _ s⟩
  | jntImm imm => exact ⟨jumpIf .t .ifClear (.imm imm) s, rfl, jumpIf_does _ _ _ s⟩
  | jntX => exact ⟨jumpIf .t .ifClear .x s, rfl, jumpIf_does _ _ _ s⟩
  | jntY => exact ⟨jumpIf .t .ifClear .y s, rfl, jumpIf_does _ _ _ s⟩
  | jcImm imm => exact ⟨jumpIf .c .ifSet (.imm imm) s, rfl, jumpIf_does _ _ _ s⟩
  | jcX => exact ⟨jumpIf .c .ifSet .x s, rfl, jumpIf_does _ _ _ s⟩
  | jcY => exact ⟨jumpIf .c .ifSet .y s, rfl, jumpIf_does _ _ _ s⟩
  | jncImm imm => exact ⟨jumpIf .c .ifClear (.imm imm) s, rfl, jumpIf_does _ _ _ s⟩
  | jncX => exact ⟨jumpIf .c .ifClear .x s, rfl, jumpIf_does _ _ _ s⟩
  | jncY => exact ⟨jumpIf .c .ifClear .y s, rfl, jumpIf_does _ _ _ s⟩
  | brImm imm => exact ⟨branch (.imm imm) s, rfl, branch_does _ s⟩
  | brX => exact ⟨branch .x s, rfl, branch_does _ s⟩
  | brY => exact ⟨branch .y s, rfl, branch_does _ s⟩
  | boImm imm => exact ⟨branchIf .o .ifSet (.imm imm) s, rfl, branchIf_does _ _ _ s⟩
  | boX => exact ⟨branchIf .o .ifSet .x s, rfl, branchIf_does _ _ _ s⟩
  | boY => exact ⟨branchIf .o .ifSet .y s, rfl, branchIf_does _ _ _ s⟩
  | bnoImm imm => exact ⟨branchIf .o .ifClear (.imm imm) s, rfl, branchIf_does _ _ _ s⟩
  | bnoX => exact ⟨branchIf .o .ifClear .x s, rfl, branchIf_does _ _ _ s⟩
  | bnoY => exact ⟨branchIf .o .ifClear .y s, rfl, branchIf_does _ _ _ s⟩
  | bzImm imm => exact ⟨branchIf .z .ifSet (.imm imm) s, rfl, branchIf_does _ _ _ s⟩
  | bzX => exact ⟨branchIf .z .ifSet .x s, rfl, branchIf_does _ _ _ s⟩
  | bzY => exact ⟨branchIf .z .ifSet .y s, rfl, branchIf_does _ _ _ s⟩
  | bnzImm imm => exact ⟨branchIf .z .ifClear (.imm imm) s, rfl, branchIf_does _ _ _ s⟩
  | bnzX => exact ⟨branchIf .z .ifClear .x s, rfl, branchIf_does _ _ _ s⟩
  | bnzY => exact ⟨branchIf .z .ifClear .y s, rfl, branchIf_does _ _ _ s⟩
  | btImm imm => exact ⟨branchIf .t .ifSet (.imm imm) s, rfl, branchIf_does _ _ _ s⟩
  | btX => exact ⟨branchIf .t .ifSet .x s, rfl, branchIf_does _ _ _ s⟩
  | btY => exact ⟨branchIf .t .ifSet .y s, rfl, branchIf_does _ _ _ s⟩
  | bntImm imm => exact ⟨branchIf .t .ifClear (.imm imm) s, rfl, branchIf_does _ _ _ s⟩
  | bntX => exact ⟨branchIf .t .ifClear .x s, rfl, branchIf_does _ _ _ s⟩
  | bntY => exact ⟨branchIf .t .ifClear .y s, rfl, branchIf_does _ _ _ s⟩
  | bcImm imm => exact ⟨branchIf .c .ifSet (.imm imm) s, rfl, branchIf_does _ _ _ s⟩
  | bcX => exact ⟨branchIf .c .ifSet .x s, rfl, branchIf_does _ _ _ s⟩
  | bcY => exact ⟨branchIf .c .ifSet .y s, rfl, branchIf_does _ _ _ s⟩
  | bncImm imm => exact ⟨branchIf .c .ifClear (.imm imm) s, rfl, branchIf_does _ _ _ s⟩
  | bncX => exact ⟨branchIf .c .ifClear .x s, rfl, branchIf_does _ _ _ s⟩
  | bncY => exact ⟨branchIf .c .ifClear .y s, rfl, branchIf_does _ _ _ s⟩
  | pushImm imm => exact ⟨pushFrom (.imm imm) s, rfl, pushFrom_does _ s⟩
  | pushAtImm imm => exact ⟨pushFrom (.atImm imm) s, rfl, pushFrom_does _ s⟩
  | pushAtX => exact ⟨pushFrom .atX s, rfl, pushFrom_does _ s⟩
  | pushAtY => exact ⟨pushFrom .atY s, rfl, pushFrom_does _ s⟩
  | pushX => exact ⟨pushFrom .x s, rfl, pushFrom_does _ s⟩
  | pushY => exact ⟨pushFrom .y s, rfl, pushFrom_does _ s⟩
  | popAtImm imm => exact ⟨popTo (.atImm imm) s, rfl, popTo_does _ s⟩
  | popX => exact ⟨popTo .x s, rfl, popTo_does _ s⟩
  | popY => exact ⟨popTo .y s, rfl, popTo_does _ s⟩
  | popAtX => exact ⟨popTo .atX s, rfl, popTo_does _ s⟩
  | outX => exact ⟨latchFrom .x s, rfl, latchFrom_does _ s⟩
  | outY => exact ⟨latchFrom .y s, rfl, latchFrom_does _ s⟩
  | outAtImm imm => exact ⟨latchFrom (.atImm imm) s, rfl, latchFrom_does _ s⟩
  | outAtX => exact ⟨latchFrom .atX s, rfl, latchFrom_does _ s⟩
  | outAtY => exact ⟨latchFrom .atY s, rfl, latchFrom_does _ s⟩
  | inX => exact ⟨latchTo .x s, rfl, latchTo_does _ s⟩
  | inY => exact ⟨latchTo .y s, rfl, latchTo_does _ s⟩
  | inAtImm imm => exact ⟨latchTo (.atImm imm) s, rfl, latchTo_does _ s⟩
  | inAtX => exact ⟨latchTo .atX s, rfl, latchTo_does _ s⟩
  | inAtY => exact ⟨latchTo .atY s, rfl, latchTo_does _ s⟩
  | nop => exact ⟨noop s, rfl, noop_does s⟩
  | hlt => exact ⟨halt s, rfl, halt_does s⟩
  | unimplemented op => exact ⟨noop s, rfl, noop_does s⟩

/-- What any instruction can leave, in every state: a fatal fault taken, or what its execute stage wrote with PC as the
program-counter policy says. -/
theorem exec_cases (i : Instr) (s : State) :
    (∃ a, memSize s.params ≤ a ∧ exec i s = .next (raiseFault (some (opcodeAtPc s)) (.memory a) s)) ∨
    exec i s = .next (raiseFault (some (opcodeAtPc s)) (.arithmetic 0#8) s) ∨
    ∃ t, Wrote s t ∧ (exec i s = .next t ∨ t.run = .running ∧ exec i s = .next (advancePc (widthOf i) t)) := by
  obtain ⟨r, he, hd⟩ := exec_does i s
  rw [he]
  match r, hd with
  | .error (.memory a), ha => exact .inl ⟨a, ha, rfl⟩
  | .error (.arithmetic b), hb => exact .inr (.inl (by rw [show b = 0#8 from hb]; rfl))
  | .ok e, hw =>
    refine .inr (.inr ⟨e.state, hw, ?_⟩)
    by_cases h : e.pcAssigned = false ∧ e.state.run = .running
    · exact .inr ⟨h.2, by simp [complete, h]⟩
    · exact .inl (by simp only [complete, if_neg h])

end Sys2Proof.Machine
end

