-- ==== Sys2Proof/Laws/PerInstr.lean ====
section
/-! SUPPORT. The per-instruction family `OpcodeWidth`: the width of an instruction is the one its opcode alone fixes
(30_encoding.md R91). -/

namespace Sys2Proof.Laws

/-- The opcode table gives the opcode of a well-formed instruction the number of bytes the instruction takes. -/
def OpcodeWidth.Statement (i : Instr) : Prop := wellFormed i = true → widthOfOpcode defaultOpcodeMap (opcodeOf i) = widthOf i

theorem OpcodeWidth.ldXImm (imm : Byte) : OpcodeWidth.Statement (.ldXImm imm) := fun _ => rfl
theorem OpcodeWidth.ldXY : OpcodeWidth.Statement .ldXY := fun _ => rfl
theorem OpcodeWidth.ldXAtImm (imm : Byte) : OpcodeWidth.Statement (.ldXAtImm imm) := fun _ => rfl
theorem OpcodeWidth.ldXAtY : OpcodeWidth.Statement .ldXAtY := fun _ => rfl
theorem OpcodeWidth.ldYImm (imm : Byte) : OpcodeWidth.Statement (.ldYImm imm) := fun _ => rfl
theorem OpcodeWidth.ldYX : OpcodeWidth.Statement .ldYX := fun _ => rfl
theorem OpcodeWidth.ldYAtImm (imm : Byte) : OpcodeWidth.Statement (.ldYAtImm imm) := fun _ => rfl
theorem OpcodeWidth.ldYAtX : OpcodeWidth.Statement .ldYAtX := fun _ => rfl
theorem OpcodeWidth.ldSPImm (imm : Byte) : OpcodeWidth.Statement (.ldSPImm imm) := fun _ => rfl
theorem OpcodeWidth.stAtImmX (imm : Byte) : OpcodeWidth.Statement (.stAtImmX imm) := fun _ => rfl
theorem OpcodeWidth.stAtImmY (imm : Byte) : OpcodeWidth.Statement (.stAtImmY imm) := fun _ => rfl
theorem OpcodeWidth.stAtYX : OpcodeWidth.Statement .stAtYX := fun _ => rfl
theorem OpcodeWidth.stAtXY : OpcodeWidth.Statement .stAtXY := fun _ => rfl
theorem OpcodeWidth.ldXSP : OpcodeWidth.Statement .ldXSP := fun _ => rfl
theorem OpcodeWidth.addXImm (imm : Byte) : OpcodeWidth.Statement (.addXImm imm) := fun _ => rfl
theorem OpcodeWidth.addXY : OpcodeWidth.Statement .addXY := fun _ => rfl
theorem OpcodeWidth.addXAtImm (imm : Byte) : OpcodeWidth.Statement (.addXAtImm imm) := fun _ => rfl
theorem OpcodeWidth.addXAtY : OpcodeWidth.Statement .addXAtY := fun _ => rfl
theorem OpcodeWidth.addYImm (imm : Byte) : OpcodeWidth.Statement (.addYImm imm) := fun _ => rfl
theorem OpcodeWidth.addYX : OpcodeWidth.Statement .addYX := fun _ => rfl
theorem OpcodeWidth.addYAtImm (imm : Byte) : OpcodeWidth.Statement (.addYAtImm imm) := fun _ => rfl
theorem OpcodeWidth.addYAtX : OpcodeWidth.Statement .addYAtX := fun _ => rfl
theorem OpcodeWidth.subXImm (imm : Byte) : OpcodeWidth.Statement (.subXImm imm) := fun _ => rfl
theorem OpcodeWidth.subXY : OpcodeWidth.Statement .subXY := fun _ => rfl
theorem OpcodeWidth.subXAtImm (imm : Byte) : OpcodeWidth.Statement (.subXAtImm imm) := fun _ => rfl
theorem OpcodeWidth.subXAtY : OpcodeWidth.Statement .subXAtY := fun _ => rfl
theorem OpcodeWidth.subYImm (imm : Byte) : OpcodeWidth.Statement (.subYImm imm) := fun _ => rfl
theorem OpcodeWidth.subYX : OpcodeWidth.Statement .subYX := fun _ => rfl
theorem OpcodeWidth.subYAtImm (imm : Byte) : OpcodeWidth.Statement (.subYAtImm imm) := fun _ => rfl
theorem OpcodeWidth.subYAtX : OpcodeWidth.Statement .subYAtX := fun _ => rfl
theorem OpcodeWidth.mulXImm (imm : Byte) : OpcodeWidth.Statement (.mulXImm imm) := fun _ => rfl
theorem OpcodeWidth.mulXY : OpcodeWidth.Statement .mulXY := fun _ => rfl
theorem OpcodeWidth.mulXAtImm (imm : Byte) : OpcodeWidth.Statement (.mulXAtImm imm) := fun _ => rfl
theorem OpcodeWidth.mulXAtY : OpcodeWidth.Statement .mulXAtY := fun _ => rfl
theorem OpcodeWidth.mulYImm (imm : Byte) : OpcodeWidth.Statement (.mulYImm imm) := fun _ => rfl
theorem OpcodeWidth.mulYX : OpcodeWidth.Statement .mulYX := fun _ => rfl
theorem OpcodeWidth.mulYAtImm (imm : Byte) : OpcodeWidth.Statement (.mulYAtImm imm) := fun _ => rfl
theorem OpcodeWidth.mulYAtX : OpcodeWidth.Statement .mulYAtX := fun _ => rfl
theorem OpcodeWidth.divXImm (imm : Byte) : OpcodeWidth.Statement (.divXImm imm) := fun _ => rfl
theorem OpcodeWidth.divXY : OpcodeWidth.Statement .divXY := fun _ => rfl
theorem OpcodeWidth.divXAtImm (imm : Byte) : OpcodeWidth.Statement (.divXAtImm imm) := fun _ => rfl
theorem OpcodeWidth.divXAtY : OpcodeWidth.Statement .divXAtY := fun _ => rfl
theorem OpcodeWidth.divYImm (imm : Byte) : OpcodeWidth.Statement (.divYImm imm) := fun _ => rfl
theorem OpcodeWidth.divYX : OpcodeWidth.Statement .divYX := fun _ => rfl
theorem OpcodeWidth.divYAtImm (imm : Byte) : OpcodeWidth.Statement (.divYAtImm imm) := fun _ => rfl
theorem OpcodeWidth.divYAtX : OpcodeWidth.Statement .divYAtX := fun _ => rfl
theorem OpcodeWidth.incX : OpcodeWidth.Statement .incX := fun _ => rfl
theorem OpcodeWidth.incY : OpcodeWidth.Statement .incY := fun _ => rfl
theorem OpcodeWidth.incAtImm (imm : Byte) : OpcodeWidth.Statement (.incAtImm imm) := fun _ => rfl
theorem OpcodeWidth.incAtX : OpcodeWidth.Statement .incAtX := fun _ => rfl
theorem OpcodeWidth.incAtY : OpcodeWidth.Statement .incAtY := fun _ => rfl
theorem OpcodeWidth.decX : OpcodeWidth.Statement .decX := fun _ => rfl
theorem OpcodeWidth.decY : OpcodeWidth.Statement .decY := fun _ => rfl
theorem OpcodeWidth.decAtImm (imm : Byte) : OpcodeWidth.Statement (.decAtImm imm) := fun _ => rfl
theorem OpcodeWidth.decAtX : OpcodeWidth.Statement .decAtX := fun _ => rfl
theorem OpcodeWidth.decAtY : OpcodeWidth.Statement .decAtY := fun _ => rfl
theorem OpcodeWidth.andXImm (imm : Byte) : OpcodeWidth.Statement (.andXImm imm) := fun _ => rfl
theorem OpcodeWidth.andXY : OpcodeWidth.Statement .andXY := fun _ => rfl
theorem OpcodeWidth.andXAtImm (imm : Byte) : OpcodeWidth.Statement (.andXAtImm imm) := fun _ => rfl
theorem OpcodeWidth.andXAtY : OpcodeWidth.Statement .andXAtY := fun _ => rfl
theorem OpcodeWidth.andYImm (imm : Byte) : OpcodeWidth.Statement (.andYImm imm) := fun _ => rfl
theorem OpcodeWidth.andYX : OpcodeWidth.Statement .andYX := fun _ => rfl
theorem OpcodeWidth.andYAtImm (imm : Byte) : OpcodeWidth.Statement (.andYAtImm imm) := fun _ => rfl
theorem OpcodeWidth.andYAtX : OpcodeWidth.Statement .andYAtX := fun _ => rfl
theorem OpcodeWidth.orXImm (imm : Byte) : OpcodeWidth.Statement (.orXImm imm) := fun _ => rfl
theorem OpcodeWidth.orXY : OpcodeWidth.Statement .orXY := fun _ => rfl
theorem OpcodeWidth.orXAtImm (imm : Byte) : OpcodeWidth.Statement (.orXAtImm imm) := fun _ => rfl
theorem OpcodeWidth.orXAtY : OpcodeWidth.Statement .orXAtY := fun _ => rfl
theorem OpcodeWidth.orYImm (imm : Byte) : OpcodeWidth.Statement (.orYImm imm) := fun _ => rfl
theorem OpcodeWidth.orYX : OpcodeWidth.Statement .orYX := fun _ => rfl
theorem OpcodeWidth.orYAtImm (imm : Byte) : OpcodeWidth.Statement (.orYAtImm imm) := fun _ => rfl
theorem OpcodeWidth.orYAtX : OpcodeWidth.Statement .orYAtX := fun _ => rfl
theorem OpcodeWidth.xorXImm (imm : Byte) : OpcodeWidth.Statement (.xorXImm imm) := fun _ => rfl
theorem OpcodeWidth.xorXY : OpcodeWidth.Statement .xorXY := fun _ => rfl
theorem OpcodeWidth.xorXAtImm (imm : Byte) : OpcodeWidth.Statement (.xorXAtImm imm) := fun _ => rfl
theorem OpcodeWidth.xorXAtY : OpcodeWidth.Statement .xorXAtY := fun _ => rfl
theorem OpcodeWidth.xorYImm (imm : Byte) : OpcodeWidth.Statement (.xorYImm imm) := fun _ => rfl
theorem OpcodeWidth.xorYX : OpcodeWidth.Statement .xorYX := fun _ => rfl
theorem OpcodeWidth.xorYAtImm (imm : Byte) : OpcodeWidth.Statement (.xorYAtImm imm) := fun _ => rfl
theorem OpcodeWidth.xorYAtX : OpcodeWidth.Statement .xorYAtX := fun _ => rfl
theorem OpcodeWidth.clrX : OpcodeWidth.Statement .clrX := fun _ => rfl
theorem OpcodeWidth.clrY : OpcodeWidth.Statement .clrY := fun _ => rfl
theorem OpcodeWidth.clrAtImm (imm : Byte) : OpcodeWidth.Statement (.clrAtImm imm) := fun _ => rfl
theorem OpcodeWidth.clrAtX : OpcodeWidth.Statement .clrAtX := fun _ => rfl
theorem OpcodeWidth.clrAtY : OpcodeWidth.Statement .clrAtY := fun _ => rfl
theorem OpcodeWidth.callImm (imm : Byte) : OpcodeWidth.Statement (.callImm imm) := fun _ => rfl
theorem OpcodeWidth.callX : OpcodeWidth.Statement .callX := fun _ => rfl
theorem OpcodeWidth.callY : OpcodeWidth.Statement .callY := fun _ => rfl
theorem OpcodeWidth.ret : OpcodeWidth.Statement .ret := fun _ => rfl
theorem OpcodeWidth.jmpImm (imm : Byte) : OpcodeWidth.Statement (.jmpImm imm) := fun _ => rfl
theorem OpcodeWidth.jmpX : OpcodeWidth.Statement .jmpX := fun _ => rfl
theorem OpcodeWidth.jmpY : OpcodeWidth.Statement .jmpY := fun _ => rfl
theorem OpcodeWidth.joImm (imm : Byte) : OpcodeWidth.Statement (.joImm imm) := fun _ => rfl
theorem OpcodeWidth.joX : OpcodeWidth.Statement .joX := fun _ => rfl
theorem OpcodeWidth.joY : OpcodeWidth.Statement .joY := fun _ => rfl
theorem OpcodeWidth.jnoImm (imm : Byte) : OpcodeWidth.Statement (.jnoImm imm) := fun _ => rfl
theorem OpcodeWidth.jnoX : OpcodeWidth.Statement .jnoX := fun _ => rfl
theorem OpcodeWidth.jnoY : OpcodeWidth.Statement .jnoY := fun _ => rfl
theorem OpcodeWidth.jzImm (imm : Byte) : OpcodeWidth.Statement (.jzImm imm) := fun _ => rfl
theorem OpcodeWidth.jzX : OpcodeWidth.Statement .jzX := fun _ => rfl
theorem OpcodeWidth.jzY : OpcodeWidth.Statement .jzY := fun _ => rfl
theorem OpcodeWidth.jnzImm (imm : Byte) : OpcodeWidth.Statement (.jnzImm imm) := fun _ => rfl
theorem OpcodeWidth.jnzX : OpcodeWidth.Statement .jnzX := fun _ => rfl
theorem OpcodeWidth.jnzY : OpcodeWidth.Statement .jnzY := fun _ => rfl
theorem OpcodeWidth.jtImm (imm : Byte) : OpcodeWidth.Statement (.jtImm imm) := fun _ => rfl
theorem OpcodeWidth.jtX : OpcodeWidth.Statement .jtX := fun _ => rfl
theorem OpcodeWidth.jtY : OpcodeWidth.Statement .jtY := fun _ => rfl
theorem OpcodeWidth.jntImm (imm : Byte) : OpcodeWidth.Statement (.jntImm imm) := fun _ => rfl
theorem OpcodeWidth.jntX : OpcodeWidth.Statement .jntX := fun _ => rfl
theorem OpcodeWidth.jntY : OpcodeWidth.Statement .jntY := fun _ => rfl
theorem OpcodeWidth.jcImm (imm : Byte) : OpcodeWidth.Statement (.jcImm imm) := fun _ => rfl
theorem OpcodeWidth.jcX : OpcodeWidth.Statement .jcX := fun _ => rfl
theorem OpcodeWidth.jcY : OpcodeWidth.Statement .jcY := fun _ => rfl
theorem OpcodeWidth.jncImm (imm : Byte) : OpcodeWidth.Statement (.jncImm imm) := fun _ => rfl
theorem OpcodeWidth.jncX : OpcodeWidth.Statement .jncX := fun _ => rfl
theorem OpcodeWidth.jncY : OpcodeWidth.Statement .jncY := fun _ => rfl
theorem OpcodeWidth.brImm (imm : Byte) : OpcodeWidth.Statement (.brImm imm) := fun _ => rfl
theorem OpcodeWidth.brX : OpcodeWidth.Statement .brX := fun _ => rfl
theorem OpcodeWidth.brY : OpcodeWidth.Statement .brY := fun _ => rfl
theorem OpcodeWidth.boImm (imm : Byte) : OpcodeWidth.Statement (.boImm imm) := fun _ => rfl
theorem OpcodeWidth.boX : OpcodeWidth.Statement .boX := fun _ => rfl
theorem OpcodeWidth.boY : OpcodeWidth.Statement .boY := fun _ => rfl
theorem OpcodeWidth.bnoImm (imm : Byte) : OpcodeWidth.Statement (.bnoImm imm) := fun _ => rfl
theorem OpcodeWidth.bnoX : OpcodeWidth.Statement .bnoX := fun _ => rfl
theorem OpcodeWidth.bnoY : OpcodeWidth.Statement .bnoY := fun _ => rfl
theorem OpcodeWidth.bzImm (imm : Byte) : OpcodeWidth.Statement (.bzImm imm) := fun _ => rfl
theorem OpcodeWidth.bzX : OpcodeWidth.Statement .bzX := fun _ => rfl
theorem OpcodeWidth.bzY : OpcodeWidth.Statement .bzY := fun _ => rfl
theorem OpcodeWidth.bnzImm (imm : Byte) : OpcodeWidth.Statement (.bnzImm imm) := fun _ => rfl
theorem OpcodeWidth.bnzX : OpcodeWidth.Statement .bnzX := fun _ => rfl
theorem OpcodeWidth.bnzY : OpcodeWidth.Statement .bnzY := fun _ => rfl
theorem OpcodeWidth.btImm (imm : Byte) : OpcodeWidth.Statement (.btImm imm) := fun _ => rfl
theorem OpcodeWidth.btX : OpcodeWidth.Statement .btX := fun _ => rfl
theorem OpcodeWidth.btY : OpcodeWidth.Statement .btY := fun _ => rfl
theorem OpcodeWidth.bntImm (imm : Byte) : OpcodeWidth.Statement (.bntImm imm) := fun _ => rfl
theorem OpcodeWidth.bntX : OpcodeWidth.Statement .bntX := fun _ => rfl
theorem OpcodeWidth.bntY : OpcodeWidth.Statement .bntY := fun _ => rfl
theorem OpcodeWidth.bcImm (imm : Byte) : OpcodeWidth.Statement (.bcImm imm) := fun _ => rfl
theorem OpcodeWidth.bcX : OpcodeWidth.Statement .bcX := fun _ => rfl
theorem OpcodeWidth.bcY : OpcodeWidth.Statement .bcY := fun _ => rfl
theorem OpcodeWidth.bncImm (imm : Byte) : OpcodeWidth.Statement (.bncImm imm) := fun _ => rfl
theorem OpcodeWidth.bncX : OpcodeWidth.Statement .bncX := fun _ => rfl
theorem OpcodeWidth.bncY : OpcodeWidth.Statement .bncY := fun _ => rfl
theorem OpcodeWidth.pushImm (imm : Byte) : OpcodeWidth.Statement (.pushImm imm) := fun _ => rfl
theorem OpcodeWidth.pushAtImm (imm : Byte) : OpcodeWidth.Statement (.pushAtImm imm) := fun _ => rfl
theorem OpcodeWidth.pushAtX : OpcodeWidth.Statement .pushAtX := fun _ => rfl
theorem OpcodeWidth.pushAtY : OpcodeWidth.Statement .pushAtY := fun _ => rfl
theorem OpcodeWidth.pushX : OpcodeWidth.Statement .pushX := fun _ => rfl
theorem OpcodeWidth.pushY : OpcodeWidth.Statement .pushY := fun _ => rfl
theorem OpcodeWidth.popAtImm (imm : Byte) : OpcodeWidth.Statement (.popAtImm imm) := fun _ => rfl
theorem OpcodeWidth.popX : OpcodeWidth.Statement .popX := fun _ => rfl
theorem OpcodeWidth.popY : OpcodeWidth.Statement .popY := fun _ => rfl
theorem OpcodeWidth.popAtX : OpcodeWidth.Statement .popAtX := fun _ => rfl
theorem OpcodeWidth.outX : OpcodeWidth.Statement .outX := fun _ => rfl
theorem OpcodeWidth.outY : OpcodeWidth.Statement .outY := fun _ => rfl
theorem OpcodeWidth.outAtImm (imm : Byte) : OpcodeWidth.Statement (.outAtImm imm) := fun _ => rfl
theorem OpcodeWidth.outAtX : OpcodeWidth.Statement .outAtX := fun _ => rfl
theorem OpcodeWidth.outAtY : OpcodeWidth.Statement .outAtY := fun _ => rfl
theorem OpcodeWidth.inX : OpcodeWidth.Statement .inX := fun _ => rfl
theorem OpcodeWidth.inY : OpcodeWidth.Statement .inY := fun _ => rfl
theorem OpcodeWidth.inAtImm (imm : Byte) : OpcodeWidth.Statement (.inAtImm imm) := fun _ => rfl
theorem OpcodeWidth.inAtX : OpcodeWidth.Statement .inAtX := fun _ => rfl
theorem OpcodeWidth.inAtY : OpcodeWidth.Statement .inAtY := fun _ => rfl
theorem OpcodeWidth.nop : OpcodeWidth.Statement .nop := fun _ => rfl
theorem OpcodeWidth.hlt : OpcodeWidth.Statement .hlt := fun _ => rfl
/-- The table has no row for an unassigned opcode, so its width is 1. -/
theorem tableRow_unassigned : ∀ op : Byte, isUnassigned op = true → tableRow op = none := by decide

theorem OpcodeWidth.unimplemented (op : Byte) : OpcodeWidth.Statement (.unimplemented op) := by
  intro h
  simp [widthOfOpcode, rowOf, mapCell, defaultOpcodeMap, opcodeOf, widthOf, encode, tableRow_unassigned op h]

end Sys2Proof.Laws
end

