-- ==== Sys2Proof/Tests/Slice0.lean ====
section
/-! SUPPORT. Tests of the model against words, worked examples and vectors of spec/, and for every statement with hypotheses
a witness that meets them. -/

namespace Sys2Proof.Tests

open Sys2Proof.Machine Sys2Proof.Claims

/-- The start state of the worked examples (41_load_store.md R150), before its instruction is placed. -/
def sample : State where
  x := 0x5a#8
  y := 0x21#8
  io := 0x77#8
  sp := 0xc0#8
  pc := 0x10#8
  f := 0x00#8
  mem := [(0x21, 0x05#8), (0x40, 0x0c#8), (0x5a, 0x33#8), (0xbf, 0x99#8)]
  run := .running
  params := defaultParams

/-- One step from `s` with an instruction placed at its PC answers `want` of it, with the cell at `cell` holding `v` and
every other cell as it was. -/
def stepsTo (s : State) (op imm : Byte) (want : State → State) (cell : Nat) (v : Byte) : Bool :=
  let start := placeWord op imm s
  match step start with
  | .next t => decide (t = { want start with mem := writeCell start.mem cell v })
  | _ => false

/-- `stepsTo` from the start state of the worked examples, with F as given. -/
def runsTo (op imm f : Byte) (want : State → State) (cell : Nat := 0x40) (v : Byte := 0x0c#8) : Bool :=
  stepsTo { sample with f := f } op imm want cell v

/-! ### Well-formed instructions -/

theorem test_wellFormed_refuses_assigned_opcode :
    wellFormed (.unimplemented 0x00#8) = false ∧ wellFormed (.unimplemented 0xff#8) = false ∧
    wellFormed (.unimplemented 0x0d#8) = false ∧ wellFormed (.unimplemented 0x10#8) = false := by decide

theorem test_wellFormed_accepts :
    wellFormed (.unimplemented 0x0e#8) = true ∧ wellFormed (.unimplemented 0xda#8) = true ∧
    wellFormed (.ldXImm 0xff#8) = true := by decide

/-! ### Decoding: every word is written out from the encoding column of the opcode table (30_encoding.md R104) -/

theorem test_decode_load_store :
    decodeTableWord 16 0b0100000000000000 = some (.ldXImm 0x40#8) ∧ decodeTableWord 8 0b00000001 = some .ldXY ∧
    decodeTableWord 16 0b0100000000000010 = some (.ldXAtImm 0x40#8) ∧ decodeTableWord 8 0b00000011 = some .ldXAtY ∧
    decodeTableWord 16 0b0100000000000100 = some (.ldYImm 0x40#8) ∧ decodeTableWord 8 0b00000101 = some .ldYX ∧
    decodeTableWord 16 0b0100000000000110 = some (.ldYAtImm 0x40#8) ∧ decodeTableWord 8 0b00000111 = some .ldYAtX ∧
    decodeTableWord 16 0b0100000000001000 = some (.ldSPImm 0x40#8) ∧
    decodeTableWord 16 0b0100000000001001 = some (.stAtImmX 0x40#8) ∧
    decodeTableWord 16 0b0100000000001010 = some (.stAtImmY 0x40#8) ∧ decodeTableWord 8 0b00001011 = some .stAtYX ∧
    decodeTableWord 8 0b00001100 = some .stAtXY ∧ decodeTableWord 8 0b00001101 = some .ldXSP := by
  decide

theorem test_decode_add :
    decodeTableWord 16 0b0100000000010000 = some (.addXImm 0x40#8) ∧ decodeTableWord 8 0b00010001 = some .addXY ∧
    decodeTableWord 16 0b0100000000010010 = some (.addXAtImm 0x40#8) ∧ decodeTableWord 8 0b00010011 = some .addXAtY ∧
    decodeTableWord 16 0b0100000000010100 = some (.addYImm 0x40#8) ∧ decodeTableWord 8 0b00010101 = some .addYX ∧
    decodeTableWord 16 0b0100000000010110 = some (.addYAtImm 0x40#8) ∧ decodeTableWord 8 0b00010111 = some .addYAtX := by
  decide

theorem test_decode_sub :
    decodeTableWord 16 0b0100000000100000 = some (.subXImm 0x40#8) ∧ decodeTableWord 8 0b00100001 = some .subXY ∧
    decodeTableWord 16 0b0100000000100010 = some (.subXAtImm 0x40#8) ∧ decodeTableWord 8 0b00100011 = some .subXAtY ∧
    decodeTableWord 16 0b0100000000100100 = some (.subYImm 0x40#8) ∧ decodeTableWord 8 0b00100101 = some .subYX ∧
    decodeTableWord 16 0b0100000000100110 = some (.subYAtImm 0x40#8) ∧ decodeTableWord 8 0b00100111 = some .subYAtX := by
  decide

theorem test_decode_mul :
    decodeTableWord 16 0b0100000000110000 = some (.mulXImm 0x40#8) ∧ decodeTableWord 8 0b00110001 = some .mulXY ∧
    decodeTableWord 16 0b0100000000110010 = some (.mulXAtImm 0x40#8) ∧ decodeTableWord 8 0b00110011 = some .mulXAtY ∧
    decodeTableWord 16 0b0100000000110100 = some (.mulYImm 0x40#8) ∧ decodeTableWord 8 0b00110101 = some .mulYX ∧
    decodeTableWord 16 0b0100000000110110 = some (.mulYAtImm 0x40#8) ∧ decodeTableWord 8 0b00110111 = some .mulYAtX := by
  decide

theorem test_decode_div :
    decodeTableWord 16 0b0100000001000000 = some (.divXImm 0x40#8) ∧ decodeTableWord 8 0b01000001 = some .divXY ∧
    decodeTableWord 16 0b0100000001000010 = some (.divXAtImm 0x40#8) ∧ decodeTableWord 8 0b01000011 = some .divXAtY ∧
    decodeTableWord 16 0b0100000001000100 = some (.divYImm 0x40#8) ∧ decodeTableWord 8 0b01000101 = some .divYX ∧
    decodeTableWord 16 0b0100000001000110 = some (.divYAtImm 0x40#8) ∧ decodeTableWord 8 0b01000111 = some .divYAtX := by
  decide

theorem test_decode_inc_dec :
    decodeTableWord 8 0b01010000 = some .incX ∧ decodeTableWord 8 0b01010001 = some .incY ∧
    decodeTableWord 16 0b0100000001010010 = some (.incAtImm 0x40#8) ∧ decodeTableWord 8 0b01010011 = some .incAtX ∧
    decodeTableWord 8 0b01010100 = some .incAtY ∧ decodeTableWord 8 0b01010101 = some .decX ∧
    decodeTableWord 8 0b01010110 = some .decY ∧ decodeTableWord 16 0b0100000001010111 = some (.decAtImm 0x40#8) ∧
    decodeTableWord 8 0b01011000 = some .decAtX ∧ decodeTableWord 8 0b01011001 = some .decAtY := by
  decide

theorem test_decode_and :
    decodeTableWord 16 0b0100000001100000 = some (.andXImm 0x40#8) ∧ decodeTableWord 8 0b01100001 = some .andXY ∧
    decodeTableWord 16 0b0100000001100010 = some (.andXAtImm 0x40#8) ∧ decodeTableWord 8 0b01100011 = some .andXAtY ∧
    decodeTableWord 16 0b0100000001100100 = some (.andYImm 0x40#8) ∧ decodeTableWord 8 0b01100101 = some .andYX ∧
    decodeTableWord 16 0b0100000001100110 = some (.andYAtImm 0x40#8) ∧ decodeTableWord 8 0b01100111 = some .andYAtX := by
  decide

theorem test_decode_or :
    decodeTableWord 16 0b0100000001110000 = some (.orXImm 0x40#8) ∧ decodeTableWord 8 0b01110001 = some .orXY ∧
    decodeTableWord 16 0b0100000001110010 = some (.orXAtImm 0x40#8) ∧ decodeTableWord 8 0b01110011 = some .orXAtY ∧
    decodeTableWord 16 0b0100000001110100 = some (.orYImm 0x40#8) ∧ decodeTableWord 8 0b01110101 = some .orYX ∧
    decodeTableWord 16 0b0100000001110110 = some (.orYAtImm 0x40#8) ∧ decodeTableWord 8 0b01110111 = some .orYAtX := by
  decide

theorem test_decode_xor :
    decodeTableWord 16 0b0100000010000000 = some (.xorXImm 0x40#8) ∧ decodeTableWord 8 0b10000001 = some .xorXY ∧
    decodeTableWord 16 0b0100000010000010 = some (.xorXAtImm 0x40#8) ∧ decodeTableWord 8 0b10000011 = some .xorXAtY ∧
    decodeTableWord 16 0b0100000010000100 = some (.xorYImm 0x40#8) ∧ decodeTableWord 8 0b10000101 = some .xorYX ∧
    decodeTableWord 16 0b0100000010000110 = some (.xorYAtImm 0x40#8) ∧ decodeTableWord 8 0b10000111 = some .xorYAtX := by
  decide

theorem test_decode_clr :
    decodeTableWord 8 0b10001000 = some .clrX ∧ decodeTableWord 8 0b10001001 = some .clrY ∧
    decodeTableWord 16 0b0100000010001010 = some (.clrAtImm 0x40#8) ∧ decodeTableWord 8 0b10001011 = some .clrAtX ∧
    decodeTableWord 8 0b10001100 = some .clrAtY := by
  decide

theorem test_decode_call_ret_jmp :
    decodeTableWord 16 0b0100000010010000 = some (.callImm 0x40#8) ∧ decodeTableWord 8 0b10010001 = some .callX ∧
    decodeTableWord 8 0b10010010 = some .callY ∧ decodeTableWord 8 0b10010011 = some .ret ∧
    decodeTableWord 16 0b0100000010100000 = some (.jmpImm 0x40#8) ∧ decodeTableWord 8 0b10100001 = some .jmpX ∧
    decodeTableWord 8 0b10100010 = some .jmpY := by
  decide

theorem test_decode_conditional_jump :
    decodeTableWord 16 0b0100000010100011 = some (.joImm 0x40#8) ∧ decodeTableWord 8 0b10100100 = some .joX ∧
    decodeTableWord 8 0b10100101 = some .joY ∧ decodeTableWord 16 0b0100000010100110 = some (.jnoImm 0x40#8) ∧
    decodeTableWord 8 0b10100111 = some .jnoX ∧ decodeTableWord 8 0b10101000 = some .jnoY ∧
    decodeTableWord 16 0b0100000010101001 = some (.jzImm 0x40#8) ∧ decodeTableWord 8 0b10101010 = some .jzX ∧
    decodeTableWord 8 0b10101011 = some .jzY ∧ decodeTableWord 16 0b0100000010101100 = some (.jnzImm 0x40#8) ∧
    decodeTableWord 8 0b10101101 = some .jnzX ∧ decodeTableWord 8 0b10101110 = some .jnzY ∧
    decodeTableWord 16 0b0100000010101111 = some (.jtImm 0x40#8) ∧ decodeTableWord 8 0b10110000 = some .jtX ∧
    decodeTableWord 8 0b10110001 = some .jtY ∧ decodeTableWord 16 0b0100000010110010 = some (.jntImm 0x40#8) ∧
    decodeTableWord 8 0b10110011 = some .jntX ∧ decodeTableWord 8 0b10110100 = some .jntY ∧
    decodeTableWord 16 0b0100000010110101 = some (.jcImm 0x40#8) ∧ decodeTableWord 8 0b10110110 = some .jcX ∧
    decodeTableWord 8 0b10110111 = some .jcY ∧ decodeTableWord 16 0b0100000010111000 = some (.jncImm 0x40#8) ∧
    decodeTableWord 8 0b10111001 = some .jncX ∧ decodeTableWord 8 0b10111010 = some .jncY := by
  decide

theorem test_decode_branch :
    decodeTableWord 16 0b1111110010111011 = some (.brImm 0xfc#8) ∧ decodeTableWord 8 0b10111100 = some .brX ∧
    decodeTableWord 8 0b10111101 = some .brY ∧ decodeTableWord 16 0b1111110010111110 = some (.boImm 0xfc#8) ∧
    decodeTableWord 8 0b10111111 = some .boX ∧ decodeTableWord 8 0b11000000 = some .boY ∧
    decodeTableWord 16 0b1111110011000001 = some (.bnoImm 0xfc#8) ∧ decodeTableWord 8 0b11000010 = some .bnoX ∧
    decodeTableWord 8 0b11000011 = some .bnoY ∧ decodeTableWord 16 0b1111110011000100 = some (.bzImm 0xfc#8) ∧
    decodeTableWord 8 0b11000101 = some .bzX ∧ decodeTableWord 8 0b11000110 = some .bzY ∧
    decodeTableWord 16 0b1111110011000111 = some (.bnzImm 0xfc#8) ∧ decodeTableWord 8 0b11001000 = some .bnzX ∧
    decodeTableWord 8 0b11001001 = some .bnzY ∧ decodeTableWord 16 0b1111110011001010 = some (.btImm 0xfc#8) ∧
    decodeTableWord 8 0b11001011 = some .btX ∧ decodeTableWord 8 0b11001100 = some .btY ∧
    decodeTableWord 16 0b1111110011001101 = some (.bntImm 0xfc#8) ∧ decodeTableWord 8 0b11001110 = some .bntX ∧
    decodeTableWord 8 0b11001111 = some .bntY ∧ decodeTableWord 16 0b1111110011010000 = some (.bcImm 0xfc#8) ∧
    decodeTableWord 8 0b11010001 = some .bcX ∧ decodeTableWord 8 0b11010010 = some .bcY ∧
    decodeTableWord 16 0b1111110011010011 = some (.bncImm 0xfc#8) ∧ decodeTableWord 8 0b11010100 = some .bncX ∧
    decodeTableWord 8 0b11010101 = some .bncY := by
  decide

theorem test_decode_push_pop :
    decodeTableWord 16 0b0100000011100000 = some (.pushImm 0x40#8) ∧
    decodeTableWord 16 0b0100000011100001 = some (.pushAtImm 0x40#8) ∧ decodeTableWord 8 0b11100010 = some .pushAtX ∧
    decodeTableWord 8 0b11100011 = some .pushAtY ∧ decodeTableWord 8 0b11100100 = some .pushX ∧
    decodeTableWord 8 0b11100101 = some .pushY ∧ decodeTableWord 16 0b0100000011100110 = some (.popAtImm 0x40#8) ∧
    decodeTableWord 8 0b11100111 = some .popX ∧ decodeTableWord 8 0b11101000 = some .popY ∧
    decodeTableWord 8 0b11101001 = some .popAtX := by
  decide

theorem test_decode_out_in :
    decodeTableWord 8 0b11110000 = some .outX ∧ decodeTableWord 8 0b11110001 = some .outY ∧
    decodeTableWord 16 0b0100000011110010 = some (.outAtImm 0x40#8) ∧ decodeTableWord 8 0b11110011 = some .outAtX ∧
    decodeTableWord 8 0b11110100 = some .outAtY ∧ decodeTableWord 8 0b11110101 = some .inX ∧
    decodeTableWord 8 0b11110110 = some .inY ∧ decodeTableWord 16 0b0100000011110111 = some (.inAtImm 0x40#8) ∧
    decodeTableWord 8 0b11111000 = some .inAtX ∧ decodeTableWord 8 0b11111001 = some .inAtY := by
  decide

theorem test_decode_nop_hlt :
    decodeTableWord 8 0b11111110 = some .nop ∧ decodeTableWord 8 0b11111111 = some .hlt := by
  decide

/-! ### One step: the worked example of each instruction rule, from the start state of 41_load_store.md R150 -/

/-- The examples of 41_load_store.md. -/
theorem test_load_store_examples :
    [runsTo 0x00#8 0x40#8 0x00#8 (fun s => { s with x := 0x40#8, pc := 0x12#8 }),
     runsTo 0x01#8 0x40#8 0x00#8 (fun s => { s with x := 0x21#8, pc := 0x11#8 }),
     runsTo 0x02#8 0x40#8 0x00#8 (fun s => { s with x := 0x0c#8, pc := 0x12#8 }),
     runsTo 0x03#8 0x40#8 0x00#8 (fun s => { s with x := 0x05#8, pc := 0x11#8 }),
     runsTo 0x04#8 0x40#8 0x00#8 (fun s => { s with y := 0x40#8, pc := 0x12#8 }),
     runsTo 0x05#8 0x40#8 0x00#8 (fun s => { s with y := 0x5a#8, pc := 0x11#8 }),
     runsTo 0x06#8 0x40#8 0x00#8 (fun s => { s with y := 0x0c#8, pc := 0x12#8 }),
     runsTo 0x07#8 0x40#8 0x00#8 (fun s => { s with y := 0x33#8, pc := 0x11#8 }),
     runsTo 0x08#8 0x40#8 0x00#8 (fun s => { s with sp := 0x40#8, pc := 0x12#8 }),
     runsTo 0x09#8 0x40#8 0x00#8 (fun s => { s with pc := 0x12#8 }) 0x40 0x5a#8,
     runsTo 0x0a#8 0x40#8 0x00#8 (fun s => { s with pc := 0x12#8 }) 0x40 0x21#8,
     runsTo 0x0b#8 0x40#8 0x00#8 (fun s => { s with pc := 0x11#8 }) 0x21 0x5a#8,
     runsTo 0x0c#8 0x40#8 0x00#8 (fun s => { s with pc := 0x11#8 }) 0x5a 0x21#8,
     runsTo 0x0d#8 0x40#8 0x00#8 (fun s => { s with x := 0xc0#8, pc := 0x11#8 })].all id = true := by
  decide

/-- The examples of 42_arithmetic.md. -/
theorem test_add_examples :
    [runsTo 0x10#8 0x40#8 0x00#8 (fun s => { s with x := 0x9a#8, pc := 0x12#8 }),
     runsTo 0x11#8 0x40#8 0x00#8 (fun s => { s with x := 0x7b#8, pc := 0x11#8 }),
     runsTo 0x12#8 0x40#8 0x00#8 (fun s => { s with x := 0x66#8, pc := 0x12#8 }),
     runsTo 0x13#8 0x40#8 0x00#8 (fun s => { s with x := 0x5f#8, pc := 0x11#8 }),
     runsTo 0x14#8 0x40#8 0x00#8 (fun s => { s with y := 0x61#8, pc := 0x12#8 }),
     runsTo 0x15#8 0x40#8 0x00#8 (fun s => { s with y := 0x7b#8, pc := 0x11#8 }),
     runsTo 0x16#8 0x40#8 0x00#8 (fun s => { s with y := 0x2d#8, pc := 0x12#8 }),
     runsTo 0x17#8 0x40#8 0x00#8 (fun s => { s with y := 0x54#8, pc := 0x11#8 })].all id = true := by
  decide

/-- The examples of 42_arithmetic.md. -/
theorem test_sub_examples :
    [runsTo 0x20#8 0x40#8 0x00#8 (fun s => { s with x := 0x1a#8, pc := 0x12#8 }),
     runsTo 0x21#8 0x40#8 0x00#8 (fun s => { s with x := 0x39#8, pc := 0x11#8 }),
     runsTo 0x22#8 0x40#8 0x00#8 (fun s => { s with x := 0x4e#8, pc := 0x12#8 }),
     runsTo 0x23#8 0x40#8 0x00#8 (fun s => { s with x := 0x55#8, pc := 0x11#8 }),
     runsTo 0x24#8 0x40#8 0x00#8 (fun s => { s with y := 0xe1#8, f := 0x05#8, pc := 0x12#8 }),
     runsTo 0x25#8 0x40#8 0x00#8 (fun s => { s with y := 0xc7#8, f := 0x05#8, pc := 0x11#8 }),
     runsTo 0x26#8 0x40#8 0x00#8 (fun s => { s with y := 0x15#8, pc := 0x12#8 }),
     runsTo 0x27#8 0x40#8 0x00#8 (fun s => { s with y := 0xee#8, f := 0x05#8, pc := 0x11#8 })].all id = true := by
  decide

/-- The examples of 42_arithmetic.md. -/
theorem test_mul_examples :
    [runsTo 0x30#8 0x40#8 0x00#8 (fun s => { s with x := 0x80#8, f := 0x01#8, pc := 0x12#8 }),
     runsTo 0x31#8 0x40#8 0x00#8 (fun s => { s with x := 0x9a#8, f := 0x05#8, pc := 0x11#8 }),
     runsTo 0x32#8 0x40#8 0x00#8 (fun s => { s with x := 0x38#8, f := 0x01#8, pc := 0x12#8 }),
     runsTo 0x33#8 0x40#8 0x00#8 (fun s => { s with x := 0xc2#8, f := 0x05#8, pc := 0x11#8 }),
     runsTo 0x34#8 0x40#8 0x00#8 (fun s => { s with y := 0x40#8, f := 0x01#8, pc := 0x12#8 }),
     runsTo 0x35#8 0x40#8 0x00#8 (fun s => { s with y := 0x9a#8, f := 0x05#8, pc := 0x11#8 }),
     runsTo 0x36#8 0x40#8 0x00#8 (fun s => { s with y := 0x8c#8, f := 0x05#8, pc := 0x12#8 }),
     runsTo 0x37#8 0x40#8 0x00#8 (fun s => { s with y := 0x93#8, f := 0x01#8, pc := 0x11#8 })].all id = true := by
  decide

/-- The examples of 42_arithmetic.md. -/
theorem test_div_examples :
    [runsTo 0x40#8 0x40#8 0x00#8 (fun s => { s with x := 0x01#8, pc := 0x12#8 }),
     runsTo 0x41#8 0x40#8 0x00#8 (fun s => { s with x := 0x02#8, pc := 0x11#8 }),
     runsTo 0x42#8 0x40#8 0x00#8 (fun s => { s with x := 0x07#8, pc := 0x12#8 }),
     runsTo 0x43#8 0x40#8 0x00#8 (fun s => { s with x := 0x12#8, pc := 0x11#8 }),
     runsTo 0x44#8 0x40#8 0x00#8 (fun s => { s with y := 0x00#8, f := 0x02#8, pc := 0x12#8 }),
     runsTo 0x45#8 0x40#8 0x00#8 (fun s => { s with y := 0x00#8, f := 0x02#8, pc := 0x11#8 }),
     runsTo 0x46#8 0x40#8 0x00#8 (fun s => { s with y := 0x02#8, pc := 0x12#8 }),
     runsTo 0x47#8 0x40#8 0x00#8 (fun s => { s with y := 0x00#8, f := 0x02#8, pc := 0x11#8 })].all id = true := by
  decide

/-- The examples of 43_increment_decrement.md. -/
theorem test_inc_dec_examples :
    [runsTo 0x50#8 0x40#8 0x00#8 (fun s => { s with x := 0x5b#8, pc := 0x11#8 }),
     runsTo 0x51#8 0x40#8 0x00#8 (fun s => { s with y := 0x22#8, pc := 0x11#8 }),
     runsTo 0x52#8 0x40#8 0x00#8 (fun s => { s with pc := 0x12#8 }) 0x40 0x0d#8,
     runsTo 0x53#8 0x40#8 0x00#8 (fun s => { s with pc := 0x11#8 }) 0x5a 0x34#8,
     runsTo 0x54#8 0x40#8 0x00#8 (fun s => { s with pc := 0x11#8 }) 0x21 0x06#8,
     runsTo 0x55#8 0x40#8 0x00#8 (fun s => { s with x := 0x59#8, pc := 0x11#8 }),
     runsTo 0x56#8 0x40#8 0x00#8 (fun s => { s with y := 0x20#8, pc := 0x11#8 }),
     runsTo 0x57#8 0x40#8 0x00#8 (fun s => { s with pc := 0x12#8 }) 0x40 0x0b#8,
     runsTo 0x58#8 0x40#8 0x00#8 (fun s => { s with pc := 0x11#8 }) 0x5a 0x32#8,
     runsTo 0x59#8 0x40#8 0x00#8 (fun s => { s with pc := 0x11#8 }) 0x21 0x04#8].all id = true := by
  decide

/-- The examples of 44_logic_and_clear.md. -/
theorem test_and_examples :
    [runsTo 0x60#8 0x40#8 0x00#8 (fun s => { s with x := 0x40#8, pc := 0x12#8 }),
     runsTo 0x61#8 0x40#8 0x00#8 (fun s => { s with x := 0x00#8, f := 0x02#8, pc := 0x11#8 }),
     runsTo 0x62#8 0x40#8 0x00#8 (fun s => { s with x := 0x08#8, pc := 0x12#8 }),
     runsTo 0x63#8 0x40#8 0x00#8 (fun s => { s with x := 0x00#8, f := 0x02#8, pc := 0x11#8 }),
     runsTo 0x64#8 0x40#8 0x00#8 (fun s => { s with y := 0x00#8, f := 0x02#8, pc := 0x12#8 }),
     runsTo 0x65#8 0x40#8 0x00#8 (fun s => { s with y := 0x00#8, f := 0x02#8, pc := 0x11#8 }),
     runsTo 0x66#8 0x40#8 0x00#8 (fun s => { s with y := 0x00#8, f := 0x02#8, pc := 0x12#8 }),
     runsTo 0x67#8 0x40#8 0x00#8 (fun s => { s with pc := 0x11#8 })].all id = true := by
  decide

/-- The examples of 44_logic_and_clear.md. -/
theorem test_or_examples :
    [runsTo 0x70#8 0x40#8 0x00#8 (fun s => { s with pc := 0x12#8 }),
     runsTo 0x71#8 0x40#8 0x00#8 (fun s => { s with x := 0x7b#8, pc := 0x11#8 }),
     runsTo 0x72#8 0x40#8 0x00#8 (fun s => { s with x := 0x5e#8, pc := 0x12#8 }),
     runsTo 0x73#8 0x40#8 0x00#8 (fun s => { s with x := 0x5f#8, pc := 0x11#8 }),
     runsTo 0x74#8 0x40#8 0x00#8 (fun s => { s with y := 0x61#8, pc := 0x12#8 }),
     runsTo 0x75#8 0x40#8 0x00#8 (fun s => { s with y := 0x7b#8, pc := 0x11#8 }),
     runsTo 0x76#8 0x40#8 0x00#8 (fun s => { s with y := 0x2d#8, pc := 0x12#8 }),
     runsTo 0x77#8 0x40#8 0x00#8 (fun s => { s with y := 0x33#8, pc := 0x11#8 })].all id = true := by
  decide

/-- The examples of 44_logic_and_clear.md. -/
theorem test_xor_examples :
    [runsTo 0x80#8 0x40#8 0x00#8 (fun s => { s with x := 0x1a#8, pc := 0x12#8 }),
     runsTo 0x81#8 0x40#8 0x00#8 (fun s => { s with x := 0x7b#8, pc := 0x11#8 }),
     runsTo 0x82#8 0x40#8 0x00#8 (fun s => { s with x := 0x56#8, pc := 0x12#8 }),
     runsTo 0x83#8 0x40#8 0x00#8 (fun s => { s with x := 0x5f#8, pc := 0x11#8 }),
     runsTo 0x84#8 0x40#8 0x00#8 (fun s => { s with y := 0x61#8, pc := 0x12#8 }),
     runsTo 0x85#8 0x40#8 0x00#8 (fun s => { s with y := 0x7b#8, pc := 0x11#8 }),
     runsTo 0x86#8 0x40#8 0x00#8 (fun s => { s with y := 0x2d#8, pc := 0x12#8 }),
     runsTo 0x87#8 0x40#8 0x00#8 (fun s => { s with y := 0x12#8, pc := 0x11#8 })].all id = true := by
  decide

/-- The examples of 44_logic_and_clear.md. -/
theorem test_clr_examples :
    [runsTo 0x88#8 0x40#8 0x00#8 (fun s => { s with x := 0x00#8, f := 0x02#8, pc := 0x11#8 }),
     runsTo 0x89#8 0x40#8 0x00#8 (fun s => { s with y := 0x00#8, f := 0x02#8, pc := 0x11#8 }),
     runsTo 0x8a#8 0x40#8 0x00#8 (fun s => { s with f := 0x02#8, pc := 0x12#8 }) 0x40 0x00#8,
     runsTo 0x8b#8 0x40#8 0x00#8 (fun s => { s with f := 0x02#8, pc := 0x11#8 }) 0x5a 0x00#8,
     runsTo 0x8c#8 0x40#8 0x00#8 (fun s => { s with f := 0x02#8, pc := 0x11#8 }) 0x21 0x00#8].all id = true := by
  decide

/-- The examples of 45_call_return.md and 46_jumps.md. -/
theorem test_call_ret_jmp_examples :
    [runsTo 0x90#8 0x40#8 0x00#8 (fun s => { s with sp := 0xc1#8, pc := 0x40#8 }) 0xc0 0x12#8,
     runsTo 0x91#8 0x40#8 0x00#8 (fun s => { s with sp := 0xc1#8, pc := 0x5a#8 }) 0xc0 0x11#8,
     runsTo 0x92#8 0x40#8 0x00#8 (fun s => { s with sp := 0xc1#8, pc := 0x21#8 }) 0xc0 0x11#8,
     runsTo 0x93#8 0x40#8 0x00#8 (fun s => { s with sp := 0xbf#8, pc := 0x99#8 }),
     runsTo 0xa0#8 0x40#8 0x00#8 (fun s => { s with pc := 0x40#8 }),
     runsTo 0xa1#8 0x40#8 0x00#8 (fun s => { s with pc := 0x5a#8 }),
     runsTo 0xa2#8 0x40#8 0x00#8 (fun s => { s with pc := 0x21#8 })].all id = true := by
  decide

/-- The examples of 46_jumps.md. -/
theorem test_conditional_jump_examples :
    [runsTo 0xa3#8 0x40#8 0x01#8 (fun s => { s with pc := 0x40#8 }),
     runsTo 0xa4#8 0x40#8 0x01#8 (fun s => { s with pc := 0x5a#8 }),
     runsTo 0xa5#8 0x40#8 0x01#8 (fun s => { s with pc := 0x21#8 }),
     runsTo 0xa6#8 0x40#8 0x02#8 (fun s => { s with pc := 0x40#8 }),
     runsTo 0xa7#8 0x40#8 0x02#8 (fun s => { s with pc := 0x5a#8 }),
     runsTo 0xa8#8 0x40#8 0x02#8 (fun s => { s with pc := 0x21#8 }),
     runsTo 0xa9#8 0x40#8 0x02#8 (fun s => { s with pc := 0x40#8 }),
     runsTo 0xaa#8 0x40#8 0x02#8 (fun s => { s with pc := 0x5a#8 }),
     runsTo 0xab#8 0x40#8 0x02#8 (fun s => { s with pc := 0x21#8 }),
     runsTo 0xac#8 0x40#8 0x01#8 (fun s => { s with pc := 0x40#8 }),
     runsTo 0xad#8 0x40#8 0x01#8 (fun s => { s with pc := 0x5a#8 }),
     runsTo 0xae#8 0x40#8 0x01#8 (fun s => { s with pc := 0x21#8 }),
     runsTo 0xaf#8 0x40#8 0x80#8 (fun s => { s with pc := 0x40#8 }),
     runsTo 0xb0#8 0x40#8 0x80#8 (fun s => { s with pc := 0x5a#8 }),
     runsTo 0xb1#8 0x40#8 0x80#8 (fun s => { s with pc := 0x21#8 }),
     runsTo 0xb2#8 0x40#8 0x01#8 (fun s => { s with pc := 0x40#8 }),
     runsTo 0xb3#8 0x40#8 0x01#8 (fun s => { s with pc := 0x5a#8 }),
     runsTo 0xb4#8 0x40#8 0x01#8 (fun s => { s with pc := 0x21#8 }),
     runsTo 0xb5#8 0x40#8 0x04#8 (fun s => { s with pc := 0x40#8 }),
     runsTo 0xb6#8 0x40#8 0x04#8 (fun s => { s with pc := 0x5a#8 }),
     runsTo 0xb7#8 0x40#8 0x04#8 (fun s => { s with pc := 0x21#8 }),
     runsTo 0xb8#8 0x40#8 0x01#8 (fun s => { s with pc := 0x40#8 }),
     runsTo 0xb9#8 0x40#8 0x01#8 (fun s => { s with pc := 0x5a#8 }),
     runsTo 0xba#8 0x40#8 0x01#8 (fun s => { s with pc := 0x21#8 })].all id = true := by
  decide

/-- The examples of 47_relative_branches.md. -/
theorem test_branch_examples :
    [runsTo 0xbb#8 0xfc#8 0x00#8 (fun s => { s with pc := 0x0c#8 }),
     runsTo 0xbc#8 0x40#8 0x00#8 (fun s => { s with pc := 0x6a#8 }),
     runsTo 0xbd#8 0x40#8 0x00#8 (fun s => { s with pc := 0x31#8 }),
     runsTo 0xbe#8 0xfc#8 0x01#8 (fun s => { s with f := 0x00#8, pc := 0x0c#8 }),
     runsTo 0xbf#8 0x40#8 0x01#8 (fun s => { s with f := 0x00#8, pc := 0x6a#8 }),
     runsTo 0xc0#8 0x40#8 0x01#8 (fun s => { s with f := 0x00#8, pc := 0x31#8 }),
     runsTo 0xc1#8 0xfc#8 0x02#8 (fun s => { s with f := 0x00#8, pc := 0x0c#8 }),
     runsTo 0xc2#8 0x40#8 0x02#8 (fun s => { s with f := 0x00#8, pc := 0x6a#8 }),
     runsTo 0xc3#8 0x40#8 0x02#8 (fun s => { s with f := 0x00#8, pc := 0x31#8 }),
     runsTo 0xc4#8 0xfc#8 0x02#8 (fun s => { s with f := 0x00#8, pc := 0x0c#8 }),
     runsTo 0xc5#8 0x40#8 0x02#8 (fun s => { s with f := 0x00#8, pc := 0x6a#8 }),
     runsTo 0xc6#8 0x40#8 0x02#8 (fun s => { s with f := 0x00#8, pc := 0x31#8 }),
     runsTo 0xc7#8 0xfc#8 0x01#8 (fun s => { s with f := 0x00#8, pc := 0x0c#8 }),
     runsTo 0xc8#8 0x40#8 0x01#8 (fun s => { s with f := 0x00#8, pc := 0x6a#8 }),
     runsTo 0xc9#8 0x40#8 0x01#8 (fun s => { s with f := 0x00#8, pc := 0x31#8 }),
     runsTo 0xca#8 0xfc#8 0x80#8 (fun s => { s with pc := 0x0c#8 }),
     runsTo 0xcb#8 0x40#8 0x80#8 (fun s => { s with pc := 0x6a#8 }),
     runsTo 0xcc#8 0x40#8 0x80#8 (fun s => { s with pc := 0x31#8 }),
     runsTo 0xcd#8 0xfc#8 0x01#8 (fun s => { s with f := 0x00#8, pc := 0x0c#8 }),
     runsTo 0xce#8 0x40#8 0x01#8 (fun s => { s with f := 0x00#8, pc := 0x6a#8 }),
     runsTo 0xcf#8 0x40#8 0x01#8 (fun s => { s with f := 0x00#8, pc := 0x31#8 }),
     runsTo 0xd0#8 0xfc#8 0x04#8 (fun s => { s with f := 0x00#8, pc := 0x0c#8 }),
     runsTo 0xd1#8 0x40#8 0x04#8 (fun s => { s with f := 0x00#8, pc := 0x6a#8 }),
     runsTo 0xd2#8 0x40#8 0x04#8 (fun s => { s with f := 0x00#8, pc := 0x31#8 }),
     runsTo 0xd3#8 0xfc#8 0x01#8 (fun s => { s with f := 0x00#8, pc := 0x0c#8 }),
     runsTo 0xd4#8 0x40#8 0x01#8 (fun s => { s with f := 0x00#8, pc := 0x6a#8 }),
     runsTo 0xd5#8 0x40#8 0x01#8 (fun s => { s with f := 0x00#8, pc := 0x31#8 })].all id = true := by
  decide

/-- The examples of 48_stack.md. -/
theorem test_push_pop_examples :
    [runsTo 0xe0#8 0x40#8 0x00#8 (fun s => { s with sp := 0xc1#8, pc := 0x12#8 }) 0xc0 0x40#8,
     runsTo 0xe1#8 0x40#8 0x00#8 (fun s => { s with sp := 0xc1#8, pc := 0x12#8 }) 0xc0 0x0c#8,
     runsTo 0xe2#8 0x40#8 0x00#8 (fun s => { s with sp := 0xc1#8, pc := 0x11#8 }) 0xc0 0x33#8,
     runsTo 0xe3#8 0x40#8 0x00#8 (fun s => { s with sp := 0xc1#8, pc := 0x11#8 }) 0xc0 0x05#8,
     runsTo 0xe4#8 0x40#8 0x00#8 (fun s => { s with sp := 0xc1#8, pc := 0x11#8 }) 0xc0 0x5a#8,
     runsTo 0xe5#8 0x40#8 0x00#8 (fun s => { s with sp := 0xc1#8, pc := 0x11#8 }) 0xc0 0x21#8,
     runsTo 0xe6#8 0x40#8 0x00#8 (fun s => { s with sp := 0xbf#8, pc := 0x12#8 }) 0x40 0x99#8,
     runsTo 0xe7#8 0x40#8 0x00#8 (fun s => { s with x := 0x99#8, sp := 0xbf#8, pc := 0x11#8 }),
     runsTo 0xe8#8 0x40#8 0x00#8 (fun s => { s with y := 0x99#8, sp := 0xbf#8, pc := 0x11#8 }),
     runsTo 0xe9#8 0x40#8 0x00#8 (fun s => { s with sp := 0xbf#8, pc := 0x11#8 }) 0x5a 0x99#8].all id = true := by
  decide

/-- The examples of 49_io_nop_halt.md. -/
theorem test_out_in_examples :
    [runsTo 0xf0#8 0x40#8 0x00#8 (fun s => { s with io := 0x5a#8, pc := 0x11#8 }),
     runsTo 0xf1#8 0x40#8 0x00#8 (fun s => { s with io := 0x21#8, pc := 0x11#8 }),
     runsTo 0xf2#8 0x40#8 0x00#8 (fun s => { s with io := 0x0c#8, pc := 0x12#8 }),
     runsTo 0xf3#8 0x40#8 0x00#8 (fun s => { s with io := 0x33#8, pc := 0x11#8 }),
     runsTo 0xf4#8 0x40#8 0x00#8 (fun s => { s with io := 0x05#8, pc := 0x11#8 }),
     runsTo 0xf5#8 0x40#8 0x00#8 (fun s => { s with x := 0x77#8, pc := 0x11#8 }),
     runsTo 0xf6#8 0x40#8 0x00#8 (fun s => { s with y := 0x77#8, pc := 0x11#8 }),
     runsTo 0xf7#8 0x40#8 0x00#8 (fun s => { s with pc := 0x12#8 }) 0x40 0x77#8,
     runsTo 0xf8#8 0x40#8 0x00#8 (fun s => { s with pc := 0x11#8 }) 0x5a 0x77#8,
     runsTo 0xf9#8 0x40#8 0x00#8 (fun s => { s with pc := 0x11#8 }) 0x21 0x77#8].all id = true := by
  decide

/-- The examples of 49_io_nop_halt.md. -/
theorem test_nop_hlt_examples :
    [runsTo 0xfe#8 0x40#8 0x00#8 (fun s => { s with pc := 0x11#8 }),
     runsTo 0xff#8 0x40#8 0x00#8 (fun s => { s with pc := 0x10#8, run := .halted })].all id = true := by
  decide

/-! ### The derived vectors of 95_test_vectors.md, Part 2 -/

/-- The state with the registers X, Y, IO, SP, PC and F as listed, every cell 0xff but those listed. -/
def listed (registers : List Nat) (cells : List Host.Cell) (run : RunState) (halt : HaltBehavior) : State where
  x := BitVec.ofNat 8 (registers.getD 0 0)
  y := BitVec.ofNat 8 (registers.getD 1 0)
  io := BitVec.ofNat 8 (registers.getD 2 0)
  sp := BitVec.ofNat 8 (registers.getD 3 0)
  pc := BitVec.ofNat 8 (registers.getD 4 0)
  f := BitVec.ofNat 8 (registers.getD 5 0)
  mem := cells.foldl (fun m c => writeCell m c.1 c.2) (imageMemory 256 [])
  run := run
  params := { defaultParams with haltBehavior := halt }

/-- One cycle from the registers and cells listed, with the bytes `op` and `imm` at PC, ends in the registers and the run
state listed with the listed cells written. -/
def vector (registers : List Nat) (cells : List Host.Cell) (op imm : Byte) (registers' : List Nat)
    (cells' : List Host.Cell) (run : RunState := .running) (halt : HaltBehavior := .spin) : Bool :=
  let start := placeWord op imm (listed registers cells .running halt)
  match step start with
  | .next t =>
    decide (t = { listed registers' [] run halt with mem := cells'.foldl (fun m c => writeCell m c.1 c.2) start.mem })
  | _ => false

/-- V1 to V12; in V5 the cell the start lists is that of the second byte. -/
theorem test_vectors_load_and_store :
    [vector [0, 0, 0, 0, 0x10, 0x07] [] 0x00 0x7f [0x7f, 0, 0, 0, 0x12, 0x07] [],
     vector [0, 0, 0, 0, 0x10, 0] [(0x40, 0x0c)] 0x02 0x40 [0x0c, 0, 0, 0, 0x12, 0] [],
     vector [0, 0x40, 0, 0, 0x10, 0] [(0x40, 0x99)] 0x03 0xff [0x99, 0x40, 0, 0, 0x11, 0] [],
     vector [0x33, 0x44, 0, 0, 0x10, 0] [] 0x05 0xff [0x33, 0x33, 0, 0, 0x11, 0] [],
     vector [0x11, 0, 0, 0, 0x10, 0] [(0x11, 0x22)] 0x07 0x22 [0x11, 0x22, 0, 0, 0x11, 0] [],
     vector [0, 0, 0, 0, 0x10, 0] [] 0x08 0xff [0, 0, 0, 0xff, 0x12, 0] [],
     vector [0xab, 0, 0, 0, 0x10, 0] [] 0x09 0x80 [0xab, 0, 0, 0, 0x12, 0] [(0x80, 0xab)],
     vector [0x5a, 0x30, 0, 0, 0x10, 0] [] 0x0b 0xff [0x5a, 0x30, 0, 0, 0x11, 0] [(0x30, 0x5a)],
     vector [0x11, 0, 0, 0, 0x10, 0] [] 0x0c 0xff [0x11, 0, 0, 0, 0x11, 0] [(0x11, 0x00)],
     vector [0x10, 0, 0, 0, 0x10, 0] [] 0x0c 0xff [0x10, 0, 0, 0, 0x11, 0] [(0x10, 0x00)],
     vector [0, 0, 0, 0xc3, 0x10, 0] [] 0x0d 0xff [0xc3, 0, 0, 0xc3, 0x11, 0] [],
     vector [0, 0, 0, 0, 0xfe, 0] [] 0x00 0x55 [0x55, 0, 0, 0, 0, 0] []].all id = true := by
  decide

/-- V13 to V33. -/
theorem test_vectors_arithmetic :
    [vector [0xff, 0, 0, 0, 0x10, 0] [] 0x10 0x01 [0, 0, 0, 0, 0x12, 0x07] [],
     vector [0x80, 0, 0, 0, 0x10, 0] [] 0x10 0x80 [0, 0, 0, 0, 0x12, 0x07] [],
     vector [0x7f, 0, 0, 0, 0x10, 0] [] 0x10 0x01 [0x80, 0, 0, 0, 0x12, 0] [],
     vector [0, 0, 0, 0, 0x10, 0] [] 0x10 0x00 [0, 0, 0, 0, 0x12, 0x02] [],
     vector [0x02, 0x03, 0, 0, 0x10, 0x80] [] 0x15 0xff [0x02, 0x05, 0, 0, 0x11, 0x80] [],
     vector [0x10, 0x40, 0, 0, 0x10, 0] [(0x40, 0x20)] 0x13 0xff [0x30, 0x40, 0, 0, 0x11, 0] [],
     vector [0x05, 0, 0, 0, 0x10, 0] [] 0x20 0x05 [0, 0, 0, 0, 0x12, 0x02] [],
     vector [0x03, 0, 0, 0, 0x10, 0] [] 0x20 0x05 [0xfe, 0, 0, 0, 0x12, 0x05] [],
     vector [0, 0, 0, 0, 0x10, 0] [] 0x24 0x01 [0, 0xff, 0, 0, 0x12, 0x05] [],
     vector [0x80, 0x80, 0, 0, 0x10, 0] [] 0x21 0xff [0, 0x80, 0, 0, 0x11, 0x02] [],
     vector [0x10, 0, 0, 0, 0x10, 0] [] 0x30 0x10 [0, 0, 0, 0, 0x12, 0x07] [],
     vector [0x20, 0, 0, 0, 0x10, 0] [] 0x30 0x10 [0, 0, 0, 0, 0x12, 0x03] [],
     vector [0xff, 0, 0, 0, 0x10, 0] [] 0x30 0xff [0x01, 0, 0, 0, 0x12, 0x01] [],
     vector [0x03, 0x05, 0, 0, 0x10, 0] [] 0x35 0xff [0x03, 0x0f, 0, 0, 0x11, 0] [],
     vector [0x9c, 0, 0, 0, 0x10, 0] [] 0x30 0x00 [0, 0, 0, 0, 0x12, 0x02] [],
     vector [0x64, 0, 0, 0, 0x10, 0] [] 0x40 0x07 [0x0e, 0, 0, 0, 0x12, 0] [],
     vector [0xfe, 0, 0, 0, 0x10, 0] [] 0x40 0xff [0, 0, 0, 0, 0x12, 0x02] [],
     vector [0, 0, 0, 0, 0x10, 0] [] 0x44 0x05 [0, 0, 0, 0, 0x12, 0x02] [],
     vector [0x07, 0, 0, 0, 0x10, 0x02] [] 0x40 0x00 [0x07, 0, 0, 0, 0x10, 0x02] [] (.faulted ⟨.arithmeticFault, some 0x40#8, 0x10#8, 0x00⟩),
     vector [0x07, 0x40, 0, 0, 0x10, 0] [(0x40, 0x00)] 0x43 0xff [0x07, 0x40, 0, 0, 0x10, 0] [] (.faulted ⟨.arithmeticFault, some 0x43#8, 0x10#8, 0x00⟩),
     vector [0xff, 0, 0, 0, 0x10, 0] [] 0x40 0x01 [0xff, 0, 0, 0, 0x12, 0] []].all id = true := by
  decide

/-- V34 to V40. -/
theorem test_vectors_increment_and_decrement :
    [vector [0xff, 0, 0, 0, 0x10, 0] [] 0x50 0xff [0, 0, 0, 0, 0x11, 0x07] [],
     vector [0x41, 0, 0, 0, 0x10, 0] [] 0x50 0xff [0x42, 0, 0, 0, 0x11, 0] [],
     vector [0, 0, 0, 0, 0x10, 0] [(0x40, 0x0c)] 0x52 0x40 [0, 0, 0, 0, 0x12, 0] [(0x40, 0x0d)],
     vector [0, 0, 0, 0, 0x10, 0] [] 0x55 0xff [0xff, 0, 0, 0, 0x11, 0x05] [],
     vector [0, 0x01, 0, 0, 0x10, 0] [] 0x56 0xff [0, 0, 0, 0, 0x11, 0x02] [],
     vector [0x40, 0, 0, 0, 0x10, 0] [(0x40, 0x80)] 0x58 0xff [0x40, 0, 0, 0, 0x11, 0] [(0x40, 0x7f)],
     vector [0, 0x41, 0, 0, 0x10, 0] [(0x41, 0xff)] 0x54 0xff [0, 0x41, 0, 0, 0x11, 0x07] [(0x41, 0x00)]].all id = true := by
  decide

/-- V41 to V50. -/
theorem test_vectors_logic_and_clear :
    [vector [0xf0, 0, 0, 0, 0x10, 0x05] [] 0x60 0x0f [0, 0, 0, 0, 0x12, 0x02] [],
     vector [0xcc, 0xaa, 0, 0, 0x10, 0] [] 0x61 0xff [0x88, 0xaa, 0, 0, 0x11, 0] [],
     vector [0, 0, 0, 0, 0x10, 0] [] 0x70 0x00 [0, 0, 0, 0, 0x12, 0x02] [],
     vector [0, 0xf0, 0, 0, 0x10, 0] [] 0x74 0x0f [0, 0xff, 0, 0, 0x12, 0] [],
     vector [0xff, 0, 0, 0, 0x10, 0] [] 0x80 0xff [0, 0, 0, 0, 0x12, 0x02] [],
     vector [0x40, 0x0f, 0, 0, 0x10, 0] [(0x40, 0xf0)] 0x87 0xff [0x40, 0xff, 0, 0, 0x11, 0] [],
     vector [0x5a, 0, 0, 0, 0x10, 0x85] [] 0x88 0xff [0, 0, 0, 0, 0x11, 0x82] [],
     vector [0, 0, 0, 0, 0x10, 0] [(0x40, 0x0c)] 0x8a 0x40 [0, 0, 0, 0, 0x12, 0x02] [(0x40, 0x00)],
     vector [0x40, 0, 0, 0, 0x10, 0] [(0x40, 0x77)] 0x8b 0xff [0x40, 0, 0, 0, 0x11, 0x02] [(0x40, 0x00)],
     vector [0, 0, 0, 0, 0x10, 0] [] 0x89 0xff [0, 0, 0, 0, 0x11, 0x02] []].all id = true := by
  decide

/-- V51 to V57. -/
theorem test_vectors_call_and_return :
    [vector [0, 0, 0, 0xc0, 0x10, 0] [] 0x90 0x40 [0, 0, 0, 0xc1, 0x40, 0] [(0xc0, 0x12)],
     vector [0x5a, 0, 0, 0xc0, 0x10, 0] [] 0x91 0xff [0x5a, 0, 0, 0xc1, 0x5a, 0] [(0xc0, 0x11)],
     vector [0, 0, 0, 0xc0, 0xfe, 0] [] 0x90 0x40 [0, 0, 0, 0xc1, 0x40, 0] [(0xc0, 0x00)],
     vector [0, 0x21, 0, 0xff, 0x10, 0] [] 0x92 0xff [0, 0x21, 0, 0, 0x21, 0] [(0xff, 0x11)],
     vector [0, 0, 0, 0xc1, 0x10, 0] [(0xc0, 0x12)] 0x93 0xff [0, 0, 0, 0xc0, 0x12, 0] [],
     vector [0, 0, 0, 0, 0x10, 0] [(0xff, 0x30)] 0x93 0xff [0, 0, 0, 0xff, 0x30, 0] [],
     vector [0, 0, 0, 0xc0, 0x10, 0] [] 0x90 0x10 [0, 0, 0, 0xc1, 0x10, 0] [(0xc0, 0x12)]].all id = true := by
  decide

/-- V58 to V71. -/
theorem test_vectors_jumps :
    [vector [0, 0, 0, 0, 0x10, 0] [] 0xa0 0x40 [0, 0, 0, 0, 0x40, 0] [],
     vector [0, 0, 0, 0, 0x10, 0] [] 0xa0 0x10 [0, 0, 0, 0, 0x10, 0] [],
     vector [0x5a, 0, 0, 0, 0x10, 0] [] 0xa1 0xff [0x5a, 0, 0, 0, 0x5a, 0] [],
     vector [0, 0, 0, 0, 0x10, 0x02] [] 0xa9 0x40 [0, 0, 0, 0, 0x40, 0x02] [],
     vector [0, 0, 0, 0, 0x10, 0x01] [] 0xa9 0x40 [0, 0, 0, 0, 0x12, 0x01] [],
     vector [0, 0, 0, 0, 0x10, 0] [] 0xac 0x40 [0, 0, 0, 0, 0x12, 0] [],
     vector [0, 0, 0, 0, 0x10, 0x01] [] 0xac 0x40 [0, 0, 0, 0, 0x40, 0x01] [],
     vector [0, 0, 0, 0, 0x10, 0x80] [] 0xac 0x40 [0, 0, 0, 0, 0x40, 0x80] [],
     vector [0, 0, 0, 0, 0x10, 0] [] 0xa6 0x40 [0, 0, 0, 0, 0x12, 0] [],
     vector [0, 0, 0, 0, 0x10, 0x80] [] 0xaf 0x40 [0, 0, 0, 0, 0x40, 0x80] [],
     vector [0, 0, 0, 0, 0x10, 0x02] [] 0xb2 0x40 [0, 0, 0, 0, 0x40, 0x02] [],
     vector [0, 0, 0, 0, 0x10, 0x05] [] 0xb5 0x40 [0, 0, 0, 0, 0x40, 0x05] [],
     vector [0x33, 0, 0, 0, 0x10, 0x02] [] 0xb9 0xff [0x33, 0, 0, 0, 0x33, 0x02] [],
     vector [0, 0x21, 0, 0, 0x10, 0x02] [] 0xa5 0xff [0, 0x21, 0, 0, 0x11, 0x02] []].all id = true := by
  decide

/-- V72 to V85. -/
theorem test_vectors_relative_branches :
    [vector [0, 0, 0, 0, 0x10, 0x07] [] 0xbb 0xfc [0, 0, 0, 0, 0x0c, 0] [],
     vector [0, 0, 0, 0, 0x10, 0x05] [] 0xbb 0x00 [0, 0, 0, 0, 0x10, 0] [],
     vector [0, 0, 0, 0, 0xfe, 0] [] 0xbb 0x02 [0, 0, 0, 0, 0, 0x07] [],
     vector [0, 0, 0, 0, 0x10, 0] [] 0xbb 0x80 [0, 0, 0, 0, 0x90, 0x05] [],
     vector [0, 0, 0, 0, 0x10, 0] [] 0xbb 0xf0 [0, 0, 0, 0, 0, 0x02] [],
     vector [0, 0, 0, 0, 0x10, 0] [] 0xbb 0x7f [0, 0, 0, 0, 0x8f, 0] [],
     vector [0x05, 0, 0, 0, 0x10, 0] [] 0xbc 0xff [0x05, 0, 0, 0, 0x15, 0] [],
     vector [0, 0xfe, 0, 0, 0x10, 0] [] 0xbd 0xff [0, 0xfe, 0, 0, 0x0e, 0] [],
     vector [0, 0, 0, 0, 0x10, 0x02] [] 0xc4 0x04 [0, 0, 0, 0, 0x14, 0] [],
     vector [0, 0, 0, 0, 0x10, 0] [] 0xc7 0xfd [0, 0, 0, 0, 0x12, 0] [],
     vector [0, 0, 0, 0, 0x10, 0x01] [] 0xc7 0xfd [0, 0, 0, 0, 0x0d, 0] [],
     vector [0x04, 0, 0, 0, 0x10, 0x02] [] 0xc8 0xff [0x04, 0, 0, 0, 0x11, 0x02] [],
     vector [0, 0, 0, 0, 0x10, 0x80] [] 0xca 0x10 [0, 0, 0, 0, 0x20, 0x80] [],
     vector [0, 0, 0, 0, 0x10, 0x02] [] 0xd3 0xf0 [0, 0, 0, 0, 0, 0x02] []].all id = true := by
  decide

/-- V86 to V94. -/
theorem test_vectors_stack :
    [vector [0, 0, 0, 0xc0, 0x10, 0] [] 0xe0 0x42 [0, 0, 0, 0xc1, 0x12, 0] [(0xc0, 0x42)],
     vector [0, 0, 0, 0xc0, 0x10, 0] [(0x40, 0x0c)] 0xe1 0x40 [0, 0, 0, 0xc1, 0x12, 0] [(0xc0, 0x0c)],
     vector [0x5a, 0, 0, 0xc0, 0x10, 0] [(0x5a, 0x33)] 0xe2 0xff [0x5a, 0, 0, 0xc1, 0x11, 0] [(0xc0, 0x33)],
     vector [0x99, 0, 0, 0xff, 0x10, 0] [] 0xe4 0xff [0x99, 0, 0, 0, 0x11, 0] [(0xff, 0x99)],
     vector [0, 0x21, 0, 0, 0x10, 0] [] 0xe5 0xff [0, 0x21, 0, 0x01, 0x11, 0] [(0x00, 0x21)],
     vector [0, 0, 0, 0xc1, 0x10, 0] [(0xc0, 0x66)] 0xe6 0x40 [0, 0, 0, 0xc0, 0x12, 0] [(0x40, 0x66)],
     vector [0, 0, 0, 0, 0x10, 0] [(0xff, 0x31)] 0xe7 0xff [0x31, 0, 0, 0xff, 0x11, 0] [],
     vector [0, 0, 0, 0xd1, 0x10, 0] [(0xd0, 0xaa)] 0xe8 0xff [0, 0xaa, 0, 0xd0, 0x11, 0] [],
     vector [0x50, 0, 0, 0xc1, 0x10, 0] [(0xc0, 0x77)] 0xe9 0xff [0x50, 0, 0, 0xc0, 0x11, 0] [(0x50, 0x77)]].all id = true := by
  decide

/-- V95 to V108, but V104. -/
theorem test_vectors_i_o_nop_hlt_unassigned_opcodes_and_fetch_faults :
    [vector [0x5a, 0, 0, 0, 0x10, 0] [] 0xf0 0xff [0x5a, 0, 0x5a, 0, 0x11, 0] [],
     vector [0, 0, 0, 0, 0x10, 0] [(0x40, 0x0c)] 0xf2 0x40 [0, 0, 0x0c, 0, 0x12, 0] [],
     vector [0, 0, 0x77, 0, 0x10, 0] [] 0xf6 0xff [0, 0x77, 0x77, 0, 0x11, 0] [],
     vector [0, 0, 0x77, 0, 0x10, 0] [] 0xf7 0x40 [0, 0, 0x77, 0, 0x12, 0] [(0x40, 0x77)],
     vector [0x41, 0, 0x77, 0, 0x10, 0] [] 0xf8 0xff [0x41, 0, 0x77, 0, 0x11, 0] [(0x41, 0x77)],
     vector [0, 0, 0, 0, 0x10, 0x07] [] 0xfe 0xff [0, 0, 0, 0, 0x11, 0x07] [],
     vector [0, 0, 0, 0, 0x10, 0] [] 0xff 0xff [0, 0, 0, 0, 0x10, 0] [] .halted,
     vector [0, 0, 0, 0, 0x10, 0x80] [] 0xff 0xff [0, 0, 0, 0, 0x11, 0x80] [],
     vector [0, 0, 0, 0, 0x10, 0] [] 0xff 0xff [0, 0, 0, 0, 0x10, 0] [] .stopped .terminate,
     vector [0x11, 0, 0, 0, 0x10, 0x02] [] 0xda 0xff [0x11, 0, 0, 0, 0x11, 0x02] [],
     vector [0, 0, 0, 0, 0x10, 0] [] 0x0e 0xff [0, 0, 0, 0, 0x11, 0] [],
     vector [0, 0, 0, 0, 0xff, 0] [] 0xfe 0x00 [0, 0, 0, 0, 0xff, 0] [] (.faulted ⟨.memoryFault, some 0xfe#8, 0xff#8, 0x100⟩),
     vector [0, 0, 0, 0, 0xff, 0] [] 0xff 0x00 [0, 0, 0, 0, 0xff, 0] [] (.faulted ⟨.memoryFault, some 0xff#8, 0xff#8, 0x100⟩)].all id = true := by
  decide
/-- V104: a poll of the halted engine with T = 0 changes nothing. -/
theorem test_poll_waits : ∃ s, step (placeWord 0xff#8 0xff#8 (listed [0, 0, 0, 0, 0x10, 0] [] .running .spin)) = .next s ∧
    s.run = .halted ∧ step s = .next s ∧ s.pc = 0x10#8 :=
  ⟨_, rfl, rfl, rfl, rfl⟩

/-- V105: the event of an unassigned opcode. -/
theorem test_unimplemented_event :
    reportedEvent (placeWord 0xda#8 0x00#8 sample) = some ⟨0xda#8, 0x10#8⟩ ∧
    reportedEvent (placeWord 0xfe#8 0x00#8 sample) = none := by decide

/-! ### An OPCODE_MAP that is not the default -/

/-- ST [imm], X and ST [imm], Y exchanged, no instruction at 0x11, ADD X, Y at 0x18. -/
def swapped : OpcodeMap := [⟨0x09#8, some 0x0a#8⟩, ⟨0x0a#8, some 0x09#8⟩, ⟨0x11#8, none⟩, ⟨0x18#8, some 0x11#8⟩]

theorem test_swapped_map :
    legalMap swapped = true ∧ decodeWord swapped 0x09#8 0x40#8 = .stAtImmY 0x40#8 ∧
    decodeWord swapped 0x0a#8 0x40#8 = .stAtImmX 0x40#8 ∧ decodeWord swapped 0x11#8 0x40#8 = .unimplemented 0x11#8 ∧
    decodeWord swapped 0x18#8 0x40#8 = .addXY ∧ decodeWord swapped 0x10#8 0x40#8 = .addXImm 0x40#8 := by decide

/-- R94: the fixed opcodes stay; R93: an instruction stays in the range of its family; a map has one list. -/
theorem test_legalMap_refuses :
    legalMap [⟨0x00#8, some 0x01#8⟩] = false ∧ legalMap [⟨0xda#8, some 0xd5#8⟩] = false ∧
    legalMap [⟨0xff#8, none⟩] = false ∧ legalMap [⟨0x01#8, some 0x10#8⟩] = false ∧
    legalMap [⟨0x0e#8, some 0x01#8⟩] = false ∧ legalMap [⟨0x01#8, some 0x01#8⟩] = false ∧
    legalMap [⟨0x18#8, none⟩] = false ∧ legalMap [⟨0x02#8, none⟩, ⟨0x01#8, none⟩] = false := by decide

/-- A division by zero at an opcode the map moved records the opcode fetched. -/
theorem test_fault_records_fetched_opcode :
    ∃ t, step (placeWord 0x48#8 0#8
        { sample with
          x := 0x07#8, y := 0#8
          params := { defaultParams with opcodeMap := [⟨0x41#8, none⟩, ⟨0x48#8, some 0x41#8⟩] } }) = .next t ∧
      t.run = .faulted ⟨.arithmeticFault, some 0x48#8, 0x10#8, 0⟩ :=
  ⟨_, rfl, by decide⟩

/-! ### Witnesses: for each statement with hypotheses, states and operands that meet them, at the ends of their ranges -/

/-- MEM_SIZE 256 with every pointer at the last address. -/
def edge : State := { sample with x := 0xff#8, y := 0xff#8, sp := 0xff#8, mem := writeCell sample.mem 0xff 0x0c#8 }

/-- MEM_SIZE 128 with every pointer at the last address. -/
def small : State :=
  { sample with
    x := 0x7f#8, y := 0x7f#8, sp := 0x7f#8, pc := 0x7e#8
    mem := [(0x7f, 0x0c#8)], params := { defaultParams with topAddr := 0x7f#8 } }

/-- MEM_SIZE 128 with every pointer at the first address outside memory. -/
def beyond : State := { small with x := 0x80#8, y := 0x80#8, sp := 0x80#8 }

/-- The engine runs, and the immediate and every pointer is an address of memory. -/
abbrev InReach (s : State) (imm : Byte) : Prop :=
  s.run = .running ∧ imm.toNat < memSize s.params ∧ s.x.toNat < memSize s.params ∧ s.y.toNat < memSize s.params ∧
    s.sp.toNat < memSize s.params

theorem witness_DecodeEncodeAgree :
    wellFormed (.unimplemented 0x0e#8) = true ∧ wellFormed (.unimplemented 0xfd#8) = true ∧
    wellFormed (.ldXImm 0x00#8) = true ∧ wellFormed (.popAtImm 0xff#8) = true ∧ wellFormed .hlt = true := by decide

theorem witness_EncodeDecodeAgree :
    decode defaultOpcodeMap [0x02#8, 0xff#8, 0x10#8] = .ok (.ldXAtImm 0xff#8, [0x10#8]) ∧ decode defaultOpcodeMap [0xff#8] = .ok (.hlt, []) := by decide

theorem witness_UnassignedOpcodes :
    isUnassigned 0x0e#8 = true ∧ isUnassigned 0xfd#8 = true ∧ isUnassigned 0x0d#8 = false ∧
    isUnassigned 0xfe#8 = false ∧ isUnassigned 0x00#8 = false ∧ isUnassigned 0xff#8 = false ∧
    (rowOf swapped 0x11#8).isNone = true ∧ (rowOf swapped 0x18#8).isNone = false := by decide

theorem witness_WidthFollowsImmediate :
    widthOfOpcode defaultOpcodeMap 0xff#8 = 1 ∧ widthOfOpcode defaultOpcodeMap 0x00#8 = 2 ∧
    (rowOf defaultOpcodeMap 0xd6#8).isNone = true ∧ (rowOf swapped 0x11#8).isNone = true := by decide

theorem witness_SourceFixedOpcodes : legalMap defaultOpcodeMap = true ∧ legalMap swapped = true := by decide

/-- At PC 0xfe, the last address a fetch of two bytes can start at. -/
theorem witness_StepRunsDecodedInstruction :
    let s := placeWord 0x02#8 0xff#8 { sample with pc := 0xfe#8 }
    s.run = .running ∧ s.pc.toNat + 1 < memSize s.params ∧ s.pc.toNat + 2 = memSize s.params ∧
    decode s.params.opcodeMap [readCell s.mem s.pc.toNat, readCell s.mem (s.pc.toNat + 1)] = .ok (.ldXAtImm 0xff#8, []) := by decide

theorem witness_FetchFaults :
    (let s := { small with pc := 0x80#8 }; s.run = .running ∧ memSize s.params ≤ s.pc.toNat) ∧
    (let s := { small with pc := 0x7f#8 };
      s.run = .running ∧ s.pc.toNat < memSize s.params ∧ memSize s.params ≤ s.pc.toNat + 1) ∧
    (let s := { edge with pc := 0xff#8 }; s.run = .running ∧ s.params.topAddr = 0xff#8 ∧ s.pc = 0xff#8) := by decide

theorem witness_HaltedPolls :
    (let s := { sample with run := .halted, pc := 0xff#8, f := 0x80#8 }; s.run = .halted ∧ s.f.getLsbD 7 = true) ∧
    (let s := { sample with run := .halted, f := 0x7f#8 }; s.run = .halted ∧ s.f.getLsbD 7 = false) := by decide

theorem witness_NoStepAfterTheRun :
    (let s := { sample with run := .stopped }; s.run = .stopped) ∧
    (let s := { sample with run := .faulted ⟨.memoryFault, none, 0x10#8, 0x100⟩ };
      s.run = .faulted ⟨.memoryFault, none, 0x10#8, 0x100⟩) ∧
    (let s := { sample with run := .halted }; s.run = .halted) ∧ sample.run = .running := by decide

theorem witness_RunStateTransitions :
    (∃ t, step (placeWord 0xfe#8 0#8 sample) = .next t ∧ t.run = .running) ∧
    (∃ t, step (placeWord 0xff#8 0#8 sample) = .next t ∧ t.run = .halted) ∧
    (∃ t, step (placeWord 0xff#8 0#8 { sample with params := { defaultParams with haltBehavior := .terminate } }) =
      .next t ∧ t.run = .stopped) ∧
    (∃ t, step { sample with pc := 0xff#8 } = .next t ∧ t.run = .faulted ⟨.memoryFault, some 0xff#8, 0xff#8, 0x100⟩) ∧
    (∃ t, step { sample with run := .halted, f := 0x80#8 } = .next t ∧ t.run = .running) ∧
    (∃ t, step { sample with run := .halted } = .next t ∧ t.run = .halted) := by
  refine ⟨⟨_, rfl, ?_⟩, ⟨_, rfl, ?_⟩, ⟨_, rfl, ?_⟩, ⟨_, rfl, ?_⟩, ⟨_, rfl, ?_⟩, ⟨_, rfl, ?_⟩⟩ <;> decide

theorem witness_PcPolicy :
    (canAssignPc (.ldXImm 0x40#8) = false ∧ sample.run = .running ∧
      ∃ t, exec (.ldXImm 0x40#8) sample = .next t ∧ t.run = .running) ∧
    (canAssignPc .hlt = false ∧ ∃ t, exec .hlt sample = .next t ∧ t.run = .halted) ∧
    (canAssignPc (.divXImm 0#8) = false ∧ ∃ t, exec (.divXImm 0#8) sample = .next t ∧ t.run ≠ .running) := by
  refine ⟨⟨by decide, rfl, _, rfl, by decide⟩, ⟨by decide, _, rfl, by decide⟩, by decide, _, rfl, by decide⟩

theorem witness_OperandValues :
    (let imm := 0x7f#8; imm.toNat < memSize small.params ∧ small.x.toNat < memSize small.params ∧
      small.y.toNat < memSize small.params) ∧
    (let imm := 0x80#8; memSize beyond.params ≤ imm.toNat ∧ memSize beyond.params ≤ beyond.x.toNat ∧
      memSize beyond.params ≤ beyond.y.toNat) := by decide

theorem witness_ReadAfterWrite :
    255 < memSize sample.params ∧ Memory.wf sample.mem = true ∧ memSize sample.params ≤ 256 := by decide

theorem witness_EqualReadsEqualMemory :
    Memory.wf sample.mem = true ∧ Memory.wf (writeCell (writeCell sample.mem 0x50 0x01#8) 0x50 0xff#8) = true ∧
    ∀ a, readCell sample.mem a = readCell (writeCell (writeCell sample.mem 0x50 0x01#8) 0x50 0xff#8) a :=
  ⟨by decide, by decide, fun _ => rfl⟩

theorem witness_FlagUpdatePolicy : (applyFlags 0x0100#16 0x80#8).getLsbD 2 = true := by decide

theorem witness_ConditionalTest :
    legalMap swapped = true ∧ sample.run = .running ∧ sample.f = 0x00#8 ∧ (0xa3 ≤ (0xa3#8).toNat ∧ (0xa3#8).toNat ≤ 0xba) ∧
    (0xa3 ≤ (0xba#8).toNat ∧ (0xba#8).toNat ≤ 0xba) ∧ (0xbe ≤ (0xbe#8).toNat ∧ (0xbe#8).toNat ≤ 0xd5) ∧
    (0xbe ≤ (0xd5#8).toNat ∧ (0xd5#8).toNat ≤ 0xd5) := by decide

theorem witness_LoadXImmediate :
    (let s := placeWord 0x00#8 0x55#8 { sample with pc := 0xfe#8 };
      legalMap s.params.opcodeMap = true ∧ s.run = .running ∧ readCell s.mem s.pc.toNat = 0x00#8 ∧ s.pc.toNat + 1 < memSize s.params) ∧
    (let s := placeWord 0x00#8 0x55#8 { sample with pc := 0xff#8 };
      legalMap s.params.opcodeMap = true ∧ s.run = .running ∧ readCell s.mem s.pc.toNat = 0x00#8 ∧ s.params.topAddr = 0xff#8 ∧ s.pc = 0xff#8) := by decide

theorem witness_LoadSPImmediate :
    (let s := placeWord 0x08#8 0x55#8 { sample with pc := 0xfe#8 };
      legalMap s.params.opcodeMap = true ∧ s.run = .running ∧ readCell s.mem s.pc.toNat = 0x08#8 ∧ s.pc.toNat + 1 < memSize s.params) ∧
    (let s := placeWord 0x08#8 0x55#8 { sample with pc := 0xff#8 };
      legalMap s.params.opcodeMap = true ∧ s.run = .running ∧ readCell s.mem s.pc.toNat = 0x08#8 ∧ s.params.topAddr = 0xff#8 ∧ s.pc = 0xff#8) := by decide

theorem witness_LoadForms : InReach edge 0xff#8 ∧ InReach small 0x7f#8 := by decide

theorem witness_StoreForms : InReach edge 0xff#8 ∧ InReach small 0x7f#8 := by decide

theorem witness_AddForms : InReach edge 0xff#8 ∧ InReach small 0x7f#8 := by decide

theorem witness_SubForms : InReach edge 0xff#8 ∧ InReach small 0x7f#8 := by decide

theorem witness_MulForms : InReach edge 0xff#8 ∧ InReach small 0x7f#8 := by decide

theorem witness_DivForms :
    (InReach edge 0xff#8 ∧ 0xff#8 ≠ 0#8 ∧ edge.x ≠ 0#8 ∧ edge.y ≠ 0#8 ∧ readCell edge.mem (0xff#8).toNat ≠ 0#8 ∧
      readCell edge.mem edge.x.toNat ≠ 0#8 ∧ readCell edge.mem edge.y.toNat ≠ 0#8) ∧
    (InReach small 0x01#8 ∧ 0x01#8 ≠ 0#8 ∧ small.x ≠ 0#8 ∧ small.y ≠ 0#8 ∧ readCell small.mem (0x01#8).toNat ≠ 0#8 ∧
      readCell small.mem small.x.toNat ≠ 0#8 ∧ readCell small.mem small.y.toNat ≠ 0#8) := by decide

theorem witness_DivByZeroFaults :
    (let s := { sample with x := 0#8, y := 0#8, mem := [(0xff, 0#8)] };
      s.x = 0#8 ∧ s.y = 0#8 ∧ (0xff#8).toNat < memSize s.params ∧ readCell s.mem (0xff#8).toNat = 0#8 ∧
      s.y.toNat < memSize s.params ∧ readCell s.mem s.y.toNat = 0#8 ∧
      s.x.toNat < memSize s.params ∧ readCell s.mem s.x.toNat = 0#8) ∧
    (let s := { small with mem := [(0x7f, 0#8)] };
      s.y.toNat < memSize s.params ∧ readCell s.mem s.y.toNat = 0#8 ∧
      s.x.toNat < memSize s.params ∧ readCell s.mem s.x.toNat = 0#8) := by decide

theorem witness_AndForms : InReach edge 0xff#8 ∧ InReach small 0x7f#8 := by decide

theorem witness_OrForms : InReach edge 0xff#8 ∧ InReach small 0x7f#8 := by decide

theorem witness_XorForms : InReach edge 0xff#8 ∧ InReach small 0x7f#8 := by decide

theorem witness_IncDecForms : InReach edge 0xff#8 ∧ InReach small 0x7f#8 := by decide

theorem witness_ClrForms : InReach edge 0xff#8 ∧ InReach small 0x7f#8 := by decide

theorem witness_CallForms : InReach edge 0xff#8 ∧ InReach small 0x7f#8 := by decide

/-- SP 0x00, below which the stack wraps to 0xff, and the first SP above a memory of 128 cells. -/
theorem witness_RetForm :
    (let s := { edge with sp := 0#8 }; s.run = .running ∧ (s.sp - 1#8).toNat < memSize s.params) ∧
    (beyond.run = .running ∧ (beyond.sp - 1#8).toNat < memSize beyond.params) := by decide

theorem witness_CallThenReturn : InReach edge 0xff#8 ∧ InReach small 0x7f#8 := by decide

theorem witness_JumpForms : edge.run = .running ∧ small.run = .running := by decide

theorem witness_ConditionalJumps :
    edge.run = .running ∧ edge.f = 0#8 ∧ (let s := { edge with f := 0x80#8 }; s.run = .running ∧ s.f ≠ 0#8) := by decide

theorem witness_BranchForms : edge.run = .running ∧ small.run = .running := by decide

theorem witness_ConditionalBranches :
    edge.run = .running ∧ edge.f = 0#8 ∧ (let s := { edge with f := 0x80#8 }; s.run = .running ∧ s.f ≠ 0#8) := by decide

/-- The targets -1, 0, 255 and 256, and each condition with F not 0. -/
theorem witness_BranchFlagsByTarget :
    let s := { sample with pc := 0xfe#8 }
    sample.run = .running ∧ s.run = .running ∧
    ((sample.pc.toNat : Int) + (0xef#8).toInt = -1 ∧ (sample.pc.toNat : Int) + (0xef#8).toInt < 0) ∧
    (sample.pc.toNat : Int) + (0xf0#8).toInt = 0 ∧
    ((s.pc.toNat : Int) + (0x01#8).toInt = 255 ∧ 0 ≤ (s.pc.toNat : Int) + (0x01#8).toInt) ∧
    ((s.pc.toNat : Int) + (0x02#8).toInt = 256 ∧ 255 < (s.pc.toNat : Int) + (0x02#8).toInt) ∧
    (let f := 0x87#8; f ≠ 0#8 ∧ f.getLsbD 0 = true ∧ f.getLsbD 1 = true ∧ f.getLsbD 2 = true ∧ f.getLsbD 7 = true) ∧
    (let f := 0x08#8; f ≠ 0#8 ∧ f.getLsbD 0 = false ∧ f.getLsbD 1 = false ∧ f.getLsbD 2 = false ∧
      f.getLsbD 7 = false) := by decide

theorem witness_PushForms : InReach edge 0xff#8 ∧ InReach small 0x7f#8 := by decide

theorem witness_PopForms :
    (let s := { edge with sp := 0#8 };
      s.run = .running ∧ (s.sp - 1#8).toNat < memSize s.params ∧ (0xff#8).toNat < memSize s.params ∧
      s.x.toNat < memSize s.params) ∧
    (let s := { small with sp := 0x80#8 };
      s.run = .running ∧ (s.sp - 1#8).toNat < memSize s.params ∧ (0x7f#8).toNat < memSize s.params ∧
      s.x.toNat < memSize s.params) := by decide

theorem witness_StackRoundTrip :
    (edge.run = .running ∧ edge.sp.toNat < memSize edge.params) ∧
    (small.run = .running ∧ small.sp.toNat < memSize small.params) := by decide

theorem witness_OutForms : InReach edge 0xff#8 ∧ InReach small 0x7f#8 := by decide

theorem witness_InForms : InReach edge 0xff#8 ∧ InReach small 0x7f#8 := by decide

theorem witness_NopAndHlt :
    (let s := { sample with params := { defaultParams with haltBehavior := .terminate } };
      s.run = .running ∧ s.params.haltBehavior = .terminate) ∧
    (let s := { sample with f := 0x80#8 }; s.run = .running ∧ s.params.haltBehavior = .spin ∧ s.f.getLsbD 7 = true) ∧
    (let s := { sample with f := 0x7f#8 };
      s.run = .running ∧ s.params.haltBehavior = .spin ∧ s.f.getLsbD 7 = false) := by decide

/-- The lowest and the highest unassigned opcode. -/
theorem witness_UnimplementedOpcodeReported :
    (let s := placeWord 0x0e#8 0#8 sample;
      s.run = .running ∧ s.pc.toNat + 1 < memSize s.params ∧
        (rowOf s.params.opcodeMap (readCell s.mem s.pc.toNat)).isNone = true) ∧
    (let s := placeWord 0xfd#8 0#8 { sample with pc := 0xfe#8 };
      s.run = .running ∧ s.pc.toNat + 1 < memSize s.params ∧
        (rowOf s.params.opcodeMap (readCell s.mem s.pc.toNat)).isNone = true) := by decide

/-- The three cases: the first address outside memory, a divisor of zero, and neither. -/
theorem witness_EveryInstructionCompletesOrFaults :
    ((accesses .pushAtX { small with sp := 0x80#8 }).find? (fun a => decide (memSize small.params ≤ a.toNat)) =
      some 0x80#8) ∧
    ((accesses (.divXAtImm 0x7f#8) { small with mem := [(0x7f, 0#8)] }).find?
      (fun a => decide (memSize small.params ≤ a.toNat)) = none) ∧
    divisor (.divXAtImm 0x7f#8) { small with mem := [(0x7f, 0#8)] } = some 0#8 ∧
    (accesses .pushAtX small).find? (fun a => decide (memSize small.params ≤ a.toNat)) = none ∧
    divisor .pushAtX small ≠ some 0#8 := by decide

theorem witness_FaultCommitsNothing :
    (∃ t, sample.run = .running ∧ step (placeWord 0x41#8 0#8 { sample with y := 0#8 }) = .next t ∧
      t.run = .faulted ⟨.arithmeticFault, some 0x41#8, 0x10#8, 0⟩) ∧
    (∃ t, beyond.run = .running ∧ step (placeWord 0xe4#8 0#8 beyond) = .next t ∧
      t.run = .faulted ⟨.memoryFault, some 0xe4#8, 0x7e#8, 0x80⟩) ∧
    (∃ t, step { beyond with pc := 0x80#8 } = .next t ∧ t.run = .faulted ⟨.memoryFault, none, 0x80#8, 0x80⟩) := by
  refine ⟨⟨_, rfl, rfl, ?_⟩, ⟨_, rfl, rfl, ?_⟩, ⟨_, rfl, ?_⟩⟩ <;> decide

theorem witness_FullMemoryNeverFaultsOnData :
    edge.params.topAddr = 0xff#8 ∧ edge.run = .running ∧
    (∃ t, exec (.divXImm 0#8) (placeWord 0x40#8 0#8 edge) = .next t ∧
      t.run = .faulted ⟨.arithmeticFault, some 0x40#8, 0x10#8, 0⟩ ∧
      (placeWord 0x40#8 0#8 edge).run ≠ .faulted ⟨.arithmeticFault, some 0x40#8, 0x10#8, 0⟩) ∧
    (∃ t, step { edge with pc := 0xff#8 } = .next t ∧ t.run = .faulted ⟨.memoryFault, some 0x0c#8, 0xff#8, 0x100⟩) ∧
    (∃ t, step (placeWord 0x44#8 0#8 { edge with pc := 0xfe#8 }) = .next t ∧
      t.run = .faulted ⟨.arithmeticFault, some 0x44#8, 0xfe#8, 0⟩) := by
  refine ⟨rfl, rfl, ⟨_, rfl, ?_⟩, ⟨_, rfl, ?_⟩, ⟨_, rfl, ?_⟩⟩ <;> decide

theorem witness_FlagFrame :
    (∃ t, exec (.unimplemented 0x18#8) edge = .next t ∧ flagProducing (.unimplemented 0x18#8) = false) ∧
    (∃ t, exec .pushX edge = .next t ∧ flagProducing .pushX = false) ∧
    (∃ t, exec .incX edge = .next t ∧ flagProducing .incX = true ∧ t.f ≠ edge.f) :=
  ⟨⟨_, rfl, by decide⟩, ⟨_, rfl, by decide⟩, _, rfl, by decide, by decide⟩

theorem witness_RegisterFrame :
    ∃ t, exec .jmpX edge = .next t ∧ writesX .jmpX = false ∧ writesY .jmpX = false ∧ writesIo .jmpX = false ∧
      writesSp .jmpX = false :=
  ⟨_, rfl, by decide⟩

theorem witness_MemoryFrame :
    (∃ t, exec .pushX edge = .next t ∧ storeAddress .pushX edge = some 0xff#8) ∧
    (∃ t, exec .stAtXY small = .next t ∧ storeAddress .stAtXY small = some 0x7f#8) ∧
    (∃ t, exec .popX edge = .next t ∧ storeAddress .popX edge = none) :=
  ⟨⟨_, rfl, by decide⟩, ⟨_, rfl, by decide⟩, _, rfl, by decide⟩

theorem witness_TracingAndPacingHaveNoEffect :
    (∃ t, step (placeWord 0xe4#8 0#8 edge) = .next t) ∧ (step { edge with run := .stopped } = .fault .runStopped) :=
  ⟨⟨_, rfl⟩, rfl⟩

/-- A run of a host action and a step, from a state with T set. -/
theorem witness_TrapStaysSet : ∃ t, Reaches { sample with f := 0x80#8 } t ∧ ({ sample with f := 0x80#8 }).f.getLsbD 7 = true :=
  ⟨_, .tail (.tail .refl (.host (.writeIO 0x55#8) _)) (.step rfl), by decide⟩

theorem witness_StepKeepsInvariant :
    (Inv edge ∧ ∃ t, step (placeWord 0xe4#8 0#8 edge) = .next t) ∧ Inv (placeWord 0xe4#8 0#8 edge) ∧
    (Inv (placeWord 0x41#8 0#8 { small with y := 0#8 }) ∧
      ∃ t, step (placeWord 0x41#8 0#8 { small with y := 0#8 }) = .next t) :=
  ⟨⟨by decide, _, rfl⟩, by decide, by decide, _, rfl⟩

theorem witness_HostKeepsInvariant : Inv edge ∧ Inv { small with run := .halted } := by decide

theorem witness_ResetValues : 6 ≤ 6 := by decide

/-- Images of no byte, of one byte too many, of every byte, and a memory of one cell. -/
theorem witness_ConstructionFillsMemory :
    legalMap defaultParams.opcodeMap = true ∧ legalMap [⟨0xff#8, none⟩] = false ∧ (let image : List Byte := []; image = [] ∨ memSize defaultParams < image.length) ∧
    (let image : List Byte := List.replicate 257 0#8; image = [] ∨ memSize defaultParams < image.length) ∧
    (let image : List Byte := List.replicate 256 0#8; image ≠ [] ∧ image.length ≤ memSize defaultParams) ∧
    (let p : Params := { defaultParams with topAddr := 0#8 };
      let image : List Byte := [0xfe#8];
      legalMap p.opcodeMap = true ∧ image ≠ [] ∧ image.length ≤ memSize p) := by
  refine ⟨rfl, rfl, .inl rfl, .inr ?_, ⟨List.cons_ne_nil _ _, ?_⟩, rfl, List.cons_ne_nil _ _, ?_⟩
  · rw [List.length_replicate]; decide
  · rw [List.length_replicate]; decide
  · decide

/-- ST [0x12], X at 0x10 writes the opcode fetched next; and at 0xfe, the last address, PC wraps to the byte written. -/
theorem witness_StoredByteIsFetched :
    (let s := placeWord 0x09#8 0x12#8 sample;
      s.run = .running ∧ s.pc.toNat + 1 < memSize s.params ∧ (0x12#8).toNat < memSize s.params ∧
      decodeWord s.params.opcodeMap (readCell s.mem s.pc.toNat) (readCell s.mem (s.pc.toNat + 1)) = .stAtImmX 0x12#8 ∧
      ∃ t, step s = .next t ∧ t.pc = 0x12#8 ∧ t.pc.toNat + 1 < memSize t.params) ∧
    (let s := placeWord 0x09#8 0x00#8 { sample with pc := 0xfe#8 };
      s.run = .running ∧ s.pc.toNat + 1 < memSize s.params ∧
      decodeWord s.params.opcodeMap (readCell s.mem s.pc.toNat) (readCell s.mem (s.pc.toNat + 1)) = .stAtImmX 0x00#8 ∧
      ∃ t, step s = .next t ∧ t.pc = 0x00#8) := by
  refine ⟨⟨rfl, by decide, by decide, by decide, _, rfl, by decide, by decide⟩,
    rfl, by decide, by decide, _, rfl, by decide⟩

end Sys2Proof.Tests
end

