-- ==== Sys2Proof/Proofs/FixedOpcodes.lean ====
section
/-! PROOF. The opcodes the source fixes (30_encoding.md R94): a legal map decodes them as the default map does, so their
meanings and widths are read off the table of R104. -/

namespace Sys2Proof.Proofs

/-- A legal map has the default map's instruction at a fixed opcode. -/
theorem decodeWord_fixed {m : OpcodeMap} (hm : legalMap m = true) {op : Byte} (hop : op ∈ fixedOpcodes) (imm : Byte) :
    decodeWord m op imm = decodeWord defaultOpcodeMap op imm := by
  simp only [decodeWord, rowOf_fixed hm hop, rowOf_default]

/-- A legal map has the default map's width at a fixed opcode. -/
theorem widthOfOpcode_fixed {m : OpcodeMap} (hm : legalMap m = true) {op : Byte} (hop : op ∈ fixedOpcodes) :
    widthOfOpcode m op = widthOfOpcode defaultOpcodeMap op := by
  simp only [widthOfOpcode, rowOf_fixed hm hop, rowOf_default]

/-- What the default map says of a fixed opcode, every legal map says. -/
theorem fixed_of_default {m : OpcodeMap} (hm : legalMap m = true) {op imm : Byte} {i : Instr} {w : Nat}
    (hop : op ∈ fixedOpcodes)
    (h : decodeWord defaultOpcodeMap op imm = i ∧ widthOfOpcode defaultOpcodeMap op = w) :
    decodeWord m op imm = i ∧ widthOfOpcode m op = w := by
  rwa [decodeWord_fixed hm hop, widthOfOpcode_fixed hm hop]

/-- Settles O3: a legal map keeps the fixed opcodes, and under the default map each is a lookup in the table; 0xda is
the one the table has no row for. -/
theorem sourceFixedOpcodes : Obligations.SourceFixedOpcodes := by
  intro m imm hm
  refine ⟨?ldXImm, ?ldSPImm, ?pushX, ?popY, ?unassigned, ?nop, ?hlt⟩
  case unassigned =>
    have hrow : rowOf defaultOpcodeMap 0xda#8 = none := by decide
    exact fixed_of_default hm (by decide) ⟨decodeWord_none hrow imm, widthOfOpcode_none hrow⟩
  all_goals exact fixed_of_default hm (by decide) ⟨rfl, rfl⟩

end Sys2Proof.Proofs
end

section
/-! PROOF. The engine cycle (40_engine_cycle.md): the value of an operand source (R125), what a cycle with both bytes within
memory fetches and runs (R121, R122), and the opcode with no instruction (R136). -/

namespace Sys2Proof.Proofs

open Sys2Proof.Machine

section operandSources
variable (a : Byte) (s : State)
@[simp] theorem val_imm : val (.imm a) s = .ok a := rfl
@[simp] theorem val_x : val .x s = .ok s.x := rfl
@[simp] theorem val_y : val .y s = .ok s.y := rfl
@[simp] theorem val_sp : val .sp s = .ok s.sp := rfl
@[simp] theorem val_atImm : val (.atImm a) s = memRead a.toNat s := rfl
@[simp] theorem val_atX : val .atX s = memRead s.x.toNat s := rfl
@[simp] theorem val_atY : val .atY s = memRead s.y.toNat s := rfl
end operandSources

/-- A source that reads the cell at `a` has the value of the cell within memory, and outside it raises at `a`. -/
theorem val_of_memRead {src : Src} {a : Nat} {s : State} (h : val src s = memRead a s) :
    (a < memSize s.params → val src s = .ok (readCell s.mem a)) ∧
    (memSize s.params ≤ a → val src s = .error (.memory a)) :=
  ⟨fun ha => h.trans (memRead_of_lt ha), fun ha => h.trans (memRead_of_ge ha)⟩

/-- Settles O13: an immediate and a register are their own values; each of the three cell sources reads memory at its
address. -/
theorem operandValues : Obligations.OperandValues := by
  intro s imm
  obtain ⟨atImm_within, atImm_outside⟩ := val_of_memRead (val_atImm imm s)
  obtain ⟨atX_within, atX_outside⟩ := val_of_memRead (val_atX s)
  obtain ⟨atY_within, atY_outside⟩ := val_of_memRead (val_atY s)
  exact ⟨val_imm imm s, val_x s, val_y s, val_sp s, atImm_within, atImm_outside, atX_within, atX_outside, atY_within,
    atY_outside⟩

/-- With PC + 1 within memory the fetch reads both bytes. -/
theorem fetch_of_lt {s : State} (h : s.pc.toNat + 1 < memSize s.params) :
    fetch s = .ok (readCell s.mem s.pc.toNat, readCell s.mem (s.pc.toNat + 1)) := by
  rcases fetch_cases s with ⟨hge, -⟩ | ⟨-, hge, -⟩ | ⟨-, hok⟩
  · omega
  · omega
  · exact hok

/-- A cycle that fetches `w` executes what OPCODE_MAP has for it. -/
theorem step_of_fetch {s : State} {w : Byte × Byte} (hrun : s.run = .running) (hw : fetch s = .ok w) :
    step s = exec (decodeWord s.params.opcodeMap w.1 w.2) s := by
  simp only [step, hrun, hw]

theorem fetched_of_fetch {s : State} {w : Byte × Byte} (hrun : s.run = .running) (hw : fetch s = .ok w) :
    fetched s = some (w.1, w.2, decodeWord s.params.opcodeMap w.1 w.2) := by
  simp only [fetched, hrun, hw]

theorem reportedEvent_of_unimplemented {s : State} {op imm op' : Byte}
    (h : fetched s = some (op, imm, .unimplemented op')) : reportedEvent s = some ⟨op, s.pc⟩ := by
  simp only [reportedEvent, h]

/-- UnimplementedOpcode is a no-op of width 1. -/
theorem exec_unimplemented (op : Byte) {s : State} (hrun : s.run = .running) :
    exec (.unimplemented op) s = .next { s with pc := s.pc + 1#8 } :=
  complete_fallThrough (.unimplemented op) s hrun

/-- Settles O46: the map has no instruction at the fetched opcode, so the cycle decodes, executes and reports
UnimplementedOpcode. -/
theorem unimplementedOpcodeReported : Obligations.UnimplementedOpcodeReported := by
  refine ⟨fun op s hrun => exec_unimplemented op hrun, fun s hrun hpc hnone => ?_⟩
  have hfetch := fetch_of_lt hpc
  have hdecode := decodeWord_none (Option.isNone_iff_eq_none.1 hnone) (readCell s.mem (s.pc.toNat + 1))
  constructor
  · rw [step_of_fetch hrun hfetch, hdecode]
    exact exec_unimplemented _ hrun
  · have hfetched := fetched_of_fetch hrun hfetch
    rw [hdecode] at hfetched
    exact reportedEvent_of_unimplemented hfetched

end Sys2Proof.Proofs
end

section
/-! PROOF. The two loads of an immediate whose opcodes the source fixes (41_load_store.md R151, R159): both cycles fetch, decode
and execute alike, and differ only in the register written. -/

namespace Sys2Proof.Proofs

open Sys2Proof.Machine

/-- A cycle whose fetch faults ends in that fault. -/
theorem step_of_fetch_error {s : State} {e : Option Byte × Raise} (hrun : s.run = .running) (he : fetch s = .error e) :
    step s = .next (raiseFault e.1 e.2 s) := by
  simp only [step, hrun, he]

/-- With 256 cells and PC at the last one, the opcode is read and the immediate lies outside memory. -/
theorem fetch_of_pc_last {s : State} (htop : s.params.topAddr = 0xff#8) (hpc : s.pc = 0xff#8) :
    fetch s = .error (some (readCell s.mem s.pc.toNat), .memory 0x100) := by
  have hsize : memSize s.params = 256 := by rw [memSize, htop]; rfl
  have hnat : s.pc.toNat = 255 := by rw [hpc]; rfl
  rcases fetch_cases s with ⟨hge, -⟩ | ⟨-, -, herr⟩ | ⟨hlt, -⟩
  · omega
  · rw [herr, hnat]
  · omega

/-- The fetch fault at the last address of 256 cells (40_engine_cycle.md R123): only the run state changes. -/
theorem step_of_pc_last {s : State} (hrun : s.run = .running) (htop : s.params.topAddr = 0xff#8) (hpc : s.pc = 0xff#8) :
    step s = .next { s with
      run := .faulted ⟨.memoryFault, some (readCell s.mem s.pc.toNat), 0xff#8, 0x100⟩ } := by
  rw [step_of_fetch_error hrun (fetch_of_pc_last htop hpc), raiseFault, faultRecord_memory, hpc]

/-- A cycle of an opcode that the map gives the instruction `i` executes `i` on the byte at PC + 1. -/
theorem step_of_opcode {s : State} {op : Byte} {i : Byte → Instr} (hrun : s.run = .running)
    (hop : readCell s.mem s.pc.toNat = op) (hi : ∀ imm, decodeWord s.params.opcodeMap op imm = i imm)
    (hpc : s.pc.toNat + 1 < memSize s.params) : step s = exec (i (readCell s.mem (s.pc.toNat + 1))) s := by
  rw [step_of_fetch hrun (fetch_of_lt hpc), hop, hi]

/-- A move of an immediate ends with the destination written and PC advanced. -/
theorem complete_move_imm (i : Instr) (d : Dst) (imm : Byte) {s t : State} (hw : writeTo d imm s = .ok t)
    (ht : t.run = .running) : complete i s (move d (.imm imm) s) = .next (advancePc (widthOf i) t) := by
  have hmove : move d (.imm imm) s = .ok (fallThrough t) := by
    simp only [move, val_imm, hw, bind, Except.bind, pure, Except.pure]
  rw [hmove, complete_fallThrough i s ht]

theorem exec_ldXImm (imm : Byte) {s : State} (hrun : s.run = .running) :
    exec (.ldXImm imm) s = .next { s with x := imm, pc := s.pc + 2#8 } :=
  complete_move_imm (.ldXImm imm) .x imm (t := { s with x := imm }) rfl hrun

theorem exec_ldSPImm (imm : Byte) {s : State} (hrun : s.run = .running) :
    exec (.ldSPImm imm) s = .next { s with sp := imm, pc := s.pc + 2#8 } :=
  complete_move_imm (.ldSPImm imm) .sp imm (t := { s with sp := imm }) rfl hrun

theorem decodeWord_ldXImm {m : OpcodeMap} (hm : legalMap m = true) (imm : Byte) :
    decodeWord m 0x00#8 imm = .ldXImm imm := by
  obtain ⟨⟨hdecode, -⟩, -⟩ := sourceFixedOpcodes m imm hm
  exact hdecode

theorem decodeWord_ldSPImm {m : OpcodeMap} (hm : legalMap m = true) (imm : Byte) :
    decodeWord m 0x08#8 imm = .ldSPImm imm := by
  obtain ⟨-, ⟨hdecode, -⟩, -⟩ := sourceFixedOpcodes m imm hm
  exact hdecode

/-- Settles O18: a legal map decodes 0x00 to LD X, #imm, whose move writes X; at the last address the fetch faults. -/
theorem loadXImmediate : Obligations.LoadXImmediate := by
  refine ⟨fun imm => ⟨rfl, fun m hm => decodeWord_ldXImm hm imm⟩, fun s imm hrun => exec_ldXImm imm hrun,
    fun s hm hrun hop => ⟨fun hpc => ?within, fun htop hpc => ?last⟩⟩
  case within => rw [step_of_opcode hrun hop (decodeWord_ldXImm hm) hpc, exec_ldXImm _ hrun]
  case last => rw [step_of_pc_last hrun htop hpc, hop]

/-- Settles O19: a legal map decodes 0x08 to LD SP, #imm, whose move writes SP; at the last address the fetch faults. -/
theorem loadSPImmediate : Obligations.LoadSPImmediate := by
  refine ⟨fun imm => ⟨rfl, fun m hm => decodeWord_ldSPImm hm imm⟩, fun s imm hrun => exec_ldSPImm imm hrun,
    fun s hm hrun hop => ⟨fun hpc => ?within, fun htop hpc => ?last⟩⟩
  case within => rw [step_of_opcode hrun hop (decodeWord_ldSPImm hm) hpc, exec_ldSPImm _ hrun]
  case last => rw [step_of_pc_last hrun htop hpc, hop]

end Sys2Proof.Proofs
end

section
/-! PROOF. The encoding (30_encoding.md sections 1 and 2): every row of R104 builds instructions whose bytes are the row's
opcode and, in a 2-byte row, the immediate. Every map decodes by those rows, so the round trips under any map follow. -/

namespace Sys2Proof.Proofs

/-- A row of R104: the instructions it builds are well-formed, and their bytes are its opcode, with the immediate after it
exactly in a 2-byte row. -/
inductive RowAgrees : OpcodeRow → Prop where
  | one {op : Byte} {i : Instr} (hwf : wellFormed i = true) (hbytes : encode i = [op]) : RowAgrees (oneByte op i)
  | two {op : Byte} {build : Byte → Instr} (hwf : ∀ imm, wellFormed (build imm) = true)
      (hbytes : ∀ imm, encode (build imm) = [op, imm]) : RowAgrees (twoByte op build)

theorem opcodeTable_agrees : ∀ r ∈ opcodeTable, RowAgrees r := by
  simp only [opcodeTable, loadStoreRows, addRows, subRows, mulRows, divRows, stepRows, andRows, orRows, xorRows, clrRows,
    callRows, jmpRows, jccRows, brRows, bccRows, stackRows, ioRows, miscRows, List.forall_mem_append,
    List.forall_mem_cons, List.not_mem_nil, false_imp_iff, implies_true, and_true]
  and_intros
  all_goals first
    | exact .one rfl rfl
    | exact .two (fun _ => rfl) (fun _ => rfl)

theorem tableRow_agrees {op : Byte} {r : OpcodeRow} (h : tableRow op = some r) : RowAgrees r :=
  opcodeTable_agrees r (List.mem_of_find?_eq_some h)

theorem rowOf_agrees {m : OpcodeMap} {op : Byte} {r : OpcodeRow} (h : rowOf m op = some r) : RowAgrees r := by
  obtain ⟨k, -, hk⟩ := Option.bind_eq_some_iff.1 h
  exact tableRow_agrees hk

namespace RowAgrees

variable {r : OpcodeRow} (h : RowAgrees r)
include h

theorem wellFormed_build (imm : Byte) : wellFormed (r.build imm) = true := by
  cases h with
  | one hwf _ => exact hwf
  | two hwf _ => exact hwf imm

theorem encode_build (imm : Byte) : encode (r.build imm) = if r.width = 1 then [r.opcode] else [r.opcode, imm] := by
  cases h with
  | one _ hbytes => exact hbytes
  | two _ hbytes => exact hbytes imm

theorem width_eq : r.width = 1 ∨ r.width = 2 := by
  cases h with
  | one => exact .inl rfl
  | two => exact .inr rfl

theorem build_const (hw : r.width = 1) (imm imm' : Byte) : r.build imm = r.build imm' := by
  cases h with
  | one => rfl
  | two => exact absurd hw (show 2 ≠ 1 by decide)

end RowAgrees

theorem tableRow_none_iff : ∀ op : Byte, (tableRow op).isNone = isUnassigned op := by decide

/-- No row builds UnimplementedOpcode: its opcode would be one that R104 leaves unassigned. -/
theorem build_ne_unimplemented {op : Byte} {r : OpcodeRow} (h : tableRow op = some r) (imm op' : Byte) :
    r.build imm ≠ .unimplemented op' := by
  intro he
  have hagrees := tableRow_agrees h
  have hop : op = op' := by
    have hbytes := hagrees.encode_build imm
    rw [he, tableRow_opcode h] at hbytes
    split at hbytes
    · exact (List.cons.inj hbytes).1.symm
    · exact absurd (congrArg List.length hbytes) (by simp [encode])
  have hwf := hagrees.wellFormed_build imm
  rw [he, ← hop, wellFormed, ← tableRow_none_iff, h] at hwf
  cases hwf

/-! ### What a map decodes -/

section anyMap
variable (m : OpcodeMap) (op imm : Byte)

theorem widthOfOpcode_eq : widthOfOpcode m op = 1 ∨ widthOfOpcode m op = 2 := by
  cases h : rowOf m op with
  | none => exact .inl (widthOfOpcode_none h)
  | some r => simpa only [widthOfOpcode_some h] using (rowOf_agrees h).width_eq

/-- After its opcode, the encoding of a decoded instruction has the immediate byte exactly where the width is 2. -/
theorem encode_tail_decodeWord :
    (encode (decodeWord m op imm)).tail = if widthOfOpcode m op = 1 then [] else [imm] := by
  cases h : rowOf m op with
  | none => rw [decodeWord_none h, widthOfOpcode_none h]; rfl
  | some r =>
    rw [decodeWord_some h, widthOfOpcode_some h, (rowOf_agrees h).encode_build]
    split <;> rfl

theorem widthOf_decodeWord : widthOf (decodeWord m op imm) = widthOfOpcode m op := by
  cases h : rowOf m op with
  | none => rw [decodeWord_none h, widthOfOpcode_none h]; rfl
  | some r =>
    have hagrees := rowOf_agrees h
    rw [decodeWord_some h, widthOfOpcode_some h, widthOf, hagrees.encode_build]
    rcases hagrees.width_eq with hw | hw <;> simp [hw]

variable {m op}

theorem decodeWord_const (hw : widthOfOpcode m op = 1) (imm imm' : Byte) : decodeWord m op imm = decodeWord m op imm' := by
  cases h : rowOf m op with
  | none => rw [decodeWord_none h, decodeWord_none h]
  | some r =>
    rw [decodeWord_some h, decodeWord_some h]
    exact (rowOf_agrees h).build_const (widthOfOpcode_some h ▸ hw) imm imm'

theorem decodeWord_inj (hw : widthOfOpcode m op = 2) {imm imm' : Byte} (h : decodeWord m op imm = decodeWord m op imm') :
    imm = imm' := by
  have htail := congrArg (fun i => (encode i).tail) h
  simpa [encode_tail_decodeWord, hw] using htail

theorem decodeWord_ne_unimplemented {r : OpcodeRow} (h : rowOf m op = some r) (imm op' : Byte) :
    decodeWord m op imm ≠ .unimplemented op' := by
  obtain ⟨k, -, hk⟩ := Option.bind_eq_some_iff.1 h
  rw [decodeWord_some h]
  exact build_ne_unimplemented hk imm op'

/-- Decoding, by the width the opcode alone fixes. -/
theorem decode_cons (rest : List Byte) : decode m (op :: rest) =
    if widthOfOpcode m op = 1 then .ok (decodeWord m op 0#8, rest)
    else match rest with
      | [] => .error .noImmediate
      | imm :: rest' => .ok (decodeWord m op imm, rest') := rfl

/-- Everything a decoding that answers can have read. -/
theorem decode_cases {bytes : List Byte} {i : Instr} {rest : List Byte} (h : decode m bytes = .ok (i, rest)) :
    (∃ op, widthOfOpcode m op = 1 ∧ bytes = op :: rest ∧ i = decodeWord m op 0#8) ∨
    ∃ op imm, widthOfOpcode m op ≠ 1 ∧ bytes = op :: imm :: rest ∧ i = decodeWord m op imm := by
  cases bytes with
  | nil => cases h
  | cons op bytes =>
    rw [decode_cons] at h
    split at h
    next hw => cases h; exact .inl ⟨op, hw, rfl, rfl⟩
    next hw =>
      cases bytes with
      | nil => cases h
      | cons imm bytes => cases h; exact .inr ⟨op, imm, hw, rfl, rfl⟩

/-- The bytes a map reads an instruction from: an opcode it has for it, and the instruction's own immediate. -/
theorem decode_opcode_tail (m : OpcodeMap) (op imm : Byte) (rest : List Byte) :
    decode m (op :: ((encode (decodeWord m op imm)).tail ++ rest)) = .ok (decodeWord m op imm, rest) := by
  rw [encode_tail_decodeWord, decode_cons]
  split
  next hw => rw [decodeWord_const hw 0#8 imm]; rfl
  next hw => rfl

end anyMap

/-! ### The default map -/

section defaultMap
variable (op imm : Byte)

theorem wellFormed_decodeWord : wellFormed (decodeWord defaultOpcodeMap op imm) = true := by
  cases h : tableRow op with
  | none =>
    rw [decodeWord_none (m := defaultOpcodeMap) h, wellFormed, ← tableRow_none_iff, h]
    rfl
  | some r =>
    rw [decodeWord_some (m := defaultOpcodeMap) h]
    exact (tableRow_agrees h).wellFormed_build imm

theorem encode_decodeWord : encode (decodeWord defaultOpcodeMap op imm) =
    if widthOfOpcode defaultOpcodeMap op = 1 then [op] else [op, imm] := by
  cases h : tableRow op with
  | none => rw [decodeWord_none (m := defaultOpcodeMap) h, widthOfOpcode_none (m := defaultOpcodeMap) h]; rfl
  | some r =>
    rw [decodeWord_some (m := defaultOpcodeMap) h, widthOfOpcode_some (m := defaultOpcodeMap) h,
      (tableRow_agrees h).encode_build, tableRow_opcode h]

theorem opcodeOf_decodeWord : opcodeOf (decodeWord defaultOpcodeMap op imm) = op := by
  rw [opcodeOf, encode_decodeWord]
  split <;> rfl

/-- The fetch decoder gives a well-formed instruction back from its opcode and its immediate, or from any second byte where
it has none. -/
theorem decodeWord_opcodeOf {i : Instr} (hwf : wellFormed i = true) (next : Byte) :
    decodeWord defaultOpcodeMap (opcodeOf i) ((encode i ++ [next]).getD 1 0#8) = i := by
  cases i with
  | unimplemented op => exact decodeWord_none (m := defaultOpcodeMap) (Laws.tableRow_unassigned op hwf) next
  | _ => rfl

theorem encode_eq_opcodeOf_cons (i : Instr) : encode i = opcodeOf i :: (encode i).tail := by cases i <;> rfl

theorem decode_encode {i : Instr} (hwf : wellFormed i = true) (rest : List Byte) :
    decode defaultOpcodeMap (encode i ++ rest) = .ok (i, rest) := by
  have hdecode := decode_opcode_tail defaultOpcodeMap (opcodeOf i) ((encode i ++ [0#8]).getD 1 0#8) rest
  rwa [decodeWord_opcodeOf hwf, ← List.cons_append, ← encode_eq_opcodeOf_cons] at hdecode

end defaultMap

/-! ### Encoding under a map -/

/-- The immediate of a decoded instruction, with which the encoder searches for its opcode, decodes to it again. -/
theorem decodeWord_immediate (m : OpcodeMap) (op imm : Byte) :
    decodeWord m op ((encode (decodeWord m op imm)).getD 1 0#8) = decodeWord m op imm := by
  rw [encode_eq_opcodeOf_cons, encode_tail_decodeWord]
  split
  next hw => exact decodeWord_const hw _ _
  next => rfl

theorem mem_opcodesOf {m : OpcodeMap} {i : Instr} {op : Byte} :
    op ∈ opcodesOf m i ↔ ∃ imm, decodeWord m op imm = i := by
  simp only [opcodesOf, List.mem_filter, List.mem_map, List.mem_range, decide_eq_true_eq]
  constructor
  · rintro ⟨-, h⟩
    exact ⟨_, h⟩
  · rintro ⟨imm, rfl⟩
    exact ⟨⟨op.toNat, op.isLt, BitVec.eq_of_toNat_eq (by simp)⟩, decodeWord_immediate m op imm⟩

/-- The encoder answers an opcode the map has for the instruction, and the instruction's immediate. -/
theorem encodeWith_eq_some {m : OpcodeMap} {i : Instr} {bytes : List Byte} (h : encodeWith m i = some bytes) :
    ∃ op imm, decodeWord m op imm = i ∧ bytes = op :: (encode i).tail := by
  obtain ⟨op, hop, rfl⟩ := Option.map_eq_some_iff.1 h
  obtain ⟨imm, himm⟩ := mem_opcodesOf.1 (List.mem_of_head? hop)
  exact ⟨op, imm, himm, rfl⟩

theorem encodeWith_eq_none {m : OpcodeMap} {i : Instr} : encodeWith m i = none ↔ ∀ op imm, decodeWord m op imm ≠ i := by
  rw [encodeWith, Option.map_eq_none_iff, List.head?_eq_none_iff, List.eq_nil_iff_forall_not_mem]
  simp only [mem_opcodesOf, not_exists]

/-- Under the default map an instruction has one opcode, so the encoder gives its bytes in R104. -/
theorem encodeWith_default {i : Instr} (hwf : wellFormed i = true) : encodeWith defaultOpcodeMap i = some (encode i) := by
  cases h : encodeWith defaultOpcodeMap i with
  | none => exact absurd (decodeWord_opcodeOf hwf 0#8) (encodeWith_eq_none.1 h _ _)
  | some bytes =>
    obtain ⟨op, imm, rfl, rfl⟩ := encodeWith_eq_some h
    rw [encode_eq_opcodeOf_cons (decodeWord _ _ _), opcodeOf_decodeWord]
    rfl

/-! ### The obligations -/

/-- Settles O1: the default map by the round trip of each instruction through R104, any map by the row an opcode selects. -/
theorem decodeEncodeAgree : Obligations.DecodeEncodeAgree := by
  refine ⟨fun i hwf => ⟨decode_encode hwf, decodeWord_opcodeOf hwf, encodeWith_default hwf⟩,
    fun m i => ⟨?_, encodeWith_eq_none⟩⟩
  intro bytes rest h
  obtain ⟨op, imm, rfl, rfl⟩ := encodeWith_eq_some h
  exact decode_opcode_tail m op imm rest

/-- Settles O2: the decoder reads the opcode, and the immediate exactly where the encoding has one. -/
theorem encodeDecodeAgree : Obligations.EncodeDecodeAgree := by
  refine ⟨fun op imm => ⟨wellFormed_decodeWord op imm, opcodeOf_decodeWord op imm, widthOf_decodeWord _ op imm,
    encode_decodeWord op imm⟩, fun bytes i rest h => ?default, fun m bytes i rest h => ?anyMap⟩
  case default =>
    rcases decode_cases h with ⟨op, hw, rfl, rfl⟩ | ⟨op, imm, hw, rfl, rfl⟩
    · rw [encode_decodeWord, if_pos hw]; rfl
    · rw [encode_decodeWord, if_neg hw]; rfl
  case anyMap =>
    rcases decode_cases h with ⟨op, hw, rfl, rfl⟩ | ⟨op, imm, hw, rfl, rfl⟩
    · exact ⟨op, by rw [encode_tail_decodeWord, if_pos hw]; rfl, 0#8, rfl⟩
    · exact ⟨op, by rw [encode_tail_decodeWord, if_neg hw]; rfl, imm, rfl⟩

/-- Settles O4: sixteen lookups in the default map. -/
theorem sampleWordsDecode : Obligations.SampleWordsDecode := by
  unfold Obligations.SampleWordsDecode
  and_intros <;> rfl

/-- Settles O5: no row builds UnimplementedOpcode, and the opcodes without a row are those of the thirteen ranges. -/
theorem unassignedOpcodes : Obligations.UnassignedOpcodes := by
  have hmap : ∀ (m : OpcodeMap) (op imm : Byte),
      ((rowOf m op).isNone = true → decodeWord m op imm = .unimplemented op) ∧
      ((rowOf m op).isNone = false → ∀ op', decodeWord m op imm ≠ .unimplemented op') := by
    refine fun m op imm => ⟨fun h => decodeWord_none (Option.isNone_iff_eq_none.1 h) imm, fun h => ?_⟩
    obtain ⟨r, hr⟩ := Option.isSome_iff_exists.1 (Option.isNone_eq_false_iff.1 h)
    exact decodeWord_ne_unimplemented hr imm
  refine ⟨fun op imm => ?_, hmap, by decide⟩
  rw [← tableRow_none_iff op]
  exact hmap defaultOpcodeMap op imm

/-- Settles O6: the width is that of the opcode's row, and two immediates give a 2-byte row two instructions. -/
theorem widthFollowsImmediate : Obligations.WidthFollowsImmediate := by
  refine fun m op => ⟨widthOfOpcode_eq m op, widthOf_decodeWord m op, ⟨fun hw => ?two, ?differ⟩,
    fun hw => decodeWord_const hw, fun h => widthOfOpcode_none (Option.isNone_iff_eq_none.1 h)⟩
  case two => exact ⟨0#8, 1#8, fun h => absurd (decodeWord_inj hw h) (by decide)⟩
  case differ =>
    rintro ⟨imm, imm', hne⟩
    exact (widthOfOpcode_eq m op).resolve_left fun hw => hne (decodeWord_const hw imm imm')

end Sys2Proof.Proofs
end

section
/-! PROOF. The invariant of the machine: every step and host action keeps it and construction establishes it. What a step can
leave is `exec_cases`, so each part of the invariant is shown of a fatal fault, of a write and of the advance of PC. -/

namespace Sys2Proof.Proofs

open Sys2Proof.Machine

/-! ### The flags -/

/-- The mask of bits 3 to 6 is empty exactly where each of these bits is clear. -/
theorem unusedBits_eq_zero_iff (f : Byte) : f &&& 0x78#8 = 0#8 ↔ ∀ k, 3 ≤ k → k ≤ 6 → f.getLsbD k = false := by
  have hmask : ∀ k, k < 8 → (0x78#8).getLsbD k = (decide (3 ≤ k) && decide (k ≤ 6)) := by decide
  constructor
  · intro h k hlo hhi
    have hk := congrArg (fun b => b.getLsbD k) h
    simpa [hmask k (by omega), hlo, hhi] using hk
  · intro h
    refine BitVec.eq_of_getLsbD_eq fun k hk => ?_
    by_cases hin : 3 ≤ k ∧ k ≤ 6
    · simp [h k hin.1 hin.2]
    · have hclear : (0x78#8).getLsbD k = false := by simpa [hmask k hk] using hin
      simp [hclear]
  
theorem applyFlags_bit_ge {k : Nat} (hk : 3 ≤ k) (t : Wide) (f : Byte) : (applyFlags t f).getLsbD k = f.getLsbD k := by
  rw [applyFlags_getLsbD, if_neg (by omega), if_neg (by omega), if_neg (by omega)]

/-- A result with bit 8 set is above 255, so the policy sets O with C. -/
theorem highByte_ne_zero_of_bit8 {t : Wide} (h : t.getLsbD 8 = true) : highByte t ≠ 0#8 := by
  intro h0
  have hbit : (highByte t).getLsbD 0 = t.getLsbD 8 := by simp [highByte]
  rw [h0, h] at hbit
  cases hbit

theorem flagSet_o_of_c_applyFlags (t : Wide) (f : Byte) (h : flagSet .c (applyFlags t f) = true) :
    flagSet .o (applyFlags t f) = true := by
  rw [flagSet_c_applyFlags] at h
  rw [flagSet_o_applyFlags, decide_eq_true_eq]
  exact highByte_ne_zero_of_bit8 h

theorem flagsLegal_applyFlags (t : Wide) {f : Byte} (h : FlagsLegal f) : FlagsLegal (applyFlags t f) := by
  obtain ⟨hunused, -⟩ := h
  refine ⟨?_, flagSet_o_of_c_applyFlags t f⟩
  rw [unusedBits_eq_zero_iff] at hunused ⊢
  exact fun k hlo hhi => (applyFlags_bit_ge hlo t f).trans (hunused k hlo hhi)

theorem withTrap_getLsbD (f : Byte) {k : Nat} (hk : k < 8) :
    (withTrap f).getLsbD k = (decide (k = 7) || f.getLsbD k) := by
  have hmask : ∀ k, k < 8 → (0x80#8).getLsbD k = decide (k = 7) := by decide
  rw [withTrap, BitVec.getLsbD_or, hmask k hk, Bool.or_comm]

@[simp] theorem flagSet_o_withTrap (f : Byte) : flagSet .o (withTrap f) = flagSet .o f :=
  withTrap_getLsbD f (show 0 < 8 by decide)

@[simp] theorem flagSet_c_withTrap (f : Byte) : flagSet .c (withTrap f) = flagSet .c f :=
  withTrap_getLsbD f (show 2 < 8 by decide)

theorem flagsLegal_withTrap {f : Byte} (h : FlagsLegal f) : FlagsLegal (withTrap f) := by
  obtain ⟨hunused, hcarry⟩ := h
  refine ⟨?_, ?_⟩
  · rw [unusedBits_eq_zero_iff] at hunused ⊢
    intro k hlo hhi
    rw [withTrap_getLsbD f (by omega), hunused k hlo hhi]
    simp only [Bool.or_false, decide_eq_false_iff_not]
    omega
  · rwa [flagSet_o_withTrap, flagSet_c_withTrap]

/-! ### Memory -/

theorem memoryInRange_iff (s : State) : MemoryInRange s ↔ ∀ c ∈ s.mem, c.1 < memSize s.params := by
  simp [MemoryInRange]

/-! ### What a cycle leaves -/

/-- A fatal fault raised for one of its two reasons: an address outside memory, or divisor 0. -/
theorem inv_raiseFault {s : State} (h : Inv s) (o : Option Byte) {r : Raise}
    (hr : (∃ a, memSize s.params ≤ a ∧ r = .memory a) ∨ r = .arithmetic 0#8) : Inv (raiseFault o r s) := by
  obtain ⟨hmap, hwf, hrange, hflags, -⟩ := h
  refine ⟨hmap, hwf, hrange, hflags, ?_⟩
  rcases hr with ⟨a, ha, rfl⟩ | rfl
  · show (decide (s.pc = s.pc) && decide (memSize s.params ≤ a)) = true
    simpa using ha
  · simp [runConsistent]

/-- An execute stage keeps every part of the invariant but the one about the run state. -/
theorem inv_of_wrote {s t : State} (h : Inv s) (hw : Wrote s t) (hrun : runConsistent t = true) : Inv t := by
  obtain ⟨hmap, hwf, hrange, hflags, -⟩ := h
  obtain ⟨hp, hmem, hf, -⟩ := hw
  refine ⟨hp ▸ hmap, ?wf, ?range, ?flags, hrun⟩
  case wf =>
    rcases hmem with hm | ⟨a, v, -, hm⟩ <;> rw [hm]
    · exact hwf
    · exact writeCell_wf s.mem a v hwf
  case range =>
    rw [memoryInRange_iff] at hrange ⊢
    rw [hp]
    rcases hmem with hm | ⟨a, v, ha, hm⟩ <;> rw [hm]
    · exact hrange
    · intro c hc
      rcases mem_writeCell s.mem a v c hc with ⟨rfl, -⟩ | hold
      · exact ha
      · exact hrange c hold
  case flags =>
    rcases hf with hf | ⟨w, hf⟩ <;> rw [hf]
    · exact hflags
    · exact flagsLegal_applyFlags w hflags

theorem inv_exec {i : Instr} {s t : State} (h : Inv s) (hrun : s.run = .running) (he : exec i s = .next t) : Inv t := by
  rcases exec_cases i s with ⟨a, ha, hx⟩ | hx | ⟨u, hw, hx⟩
  · cases hx.symm.trans he
    exact inv_raiseFault h _ (.inl ⟨a, ha, rfl⟩)
  · cases hx.symm.trans he
    exact inv_raiseFault h _ (.inr rfl)
  · have hu : runConsistent u = true := by
      rcases hw.run with hr | ⟨hr, hb⟩ | ⟨hr, hb, -⟩
      · simp [runConsistent, hr, hrun]
      · simp [runConsistent, hr, hw.params, hb]
      · simp [runConsistent, hr, hw.params, hb]
    rcases hx with hx | ⟨hur, hx⟩ <;> cases hx.symm.trans he
    · exact inv_of_wrote h hw hu
    · exact inv_of_wrote h ⟨hw.params, hw.mem, hw.flags, hw.run⟩ (by simp [runConsistent, hur])

/-- The fetch faults at an address outside memory. -/
theorem fetch_eq_error {s : State} {e : Option Byte × Raise} (h : fetch s = .error e) :
    ∃ a, memSize s.params ≤ a ∧ e.2 = .memory a := by
  rcases fetch_cases s with ⟨hge, hf⟩ | ⟨-, hge, hf⟩ | ⟨-, hf⟩ <;> cases hf.symm.trans h
  · exact ⟨_, hge, rfl⟩
  · exact ⟨_, hge, rfl⟩

theorem inv_pollTrap {s : State} (h : Inv s) : Inv (pollTrap s) := by
  unfold pollTrap
  split
  · obtain ⟨hmap, hwf, hrange, hflags, -⟩ := h
    exact ⟨hmap, hwf, hrange, hflags, rfl⟩
  · exact h

/-- Everything a step that answers can be: a faulting fetch, the execution of the fetched instruction, or a poll. -/
theorem step_eq_next {s t : State} (h : step s = .next t) :
    (s.run = .running ∧ ∃ e, fetch s = .error e ∧ t = raiseFault e.1 e.2 s) ∨
    (s.run = .running ∧ ∃ w, fetch s = .ok w ∧ exec (decodeWord s.params.opcodeMap w.1 w.2) s = .next t) ∨
    (s.run = .halted ∧ t = pollTrap s) := by
  cases hrun : s.run with
  | running =>
    cases hf : fetch s with
    | error e => exact .inl ⟨rfl, e, rfl, by rw [step_of_fetch_error hrun hf] at h; cases h; rfl⟩
    | ok w => exact .inr (.inl ⟨rfl, w, rfl, by rwa [step_of_fetch hrun hf] at h⟩)
  | halted =>
    simp only [step, hrun] at h
    cases h
    exact .inr (.inr ⟨rfl, rfl⟩)
  | stopped => simp only [step, hrun] at h; cases h
  | faulted r => simp only [step, hrun] at h; cases h

/-- Settles O55: a faulting fetch, an executed instruction and a poll each keep the invariant. -/
theorem stepKeepsInvariant : Obligations.StepKeepsInvariant := by
  intro s t hinv hstep
  rcases step_eq_next hstep with ⟨-, e, hf, rfl⟩ | ⟨hrun, w, -, he⟩ | ⟨-, rfl⟩
  · exact inv_raiseFault hinv e.1 (.inl (fetch_eq_error hf))
  · exact inv_exec hinv hrun he
  · exact inv_pollTrap hinv

/-! ### The host -/

theorem inv_hostAct {s : State} (a : HostAction) (h : Inv s) : Inv (hostAct a s) := by
  obtain ⟨hmap, hwf, hrange, hflags, hrun⟩ := h
  cases a with
  | setTrap => exact ⟨hmap, hwf, hrange, flagsLegal_withTrap hflags, hrun⟩
  | writeIO v => exact ⟨hmap, hwf, hrange, hflags, hrun⟩
  | observe => exact ⟨hmap, hwf, hrange, hflags, hrun⟩
  | cutOff => exact ⟨hmap, hwf, hrange, hflags, hrun⟩

/-- Settles O56: SetTrap keeps the flags legal, and no other action touches what the invariant speaks of. -/
theorem hostKeepsInvariant : Obligations.HostKeepsInvariant :=
  ⟨fun _ a h => inv_hostAct a h, fun s v =>
    ⟨⟨withTrap s.f, hostAct_setTrap s, fun _ hk => withTrap_getLsbD s.f hk⟩, hostAct_writeIO v s, hostAct_observe s,
      hostAct_cutOff s⟩⟩

/-- Settles O58: at reset no cell is listed and every flag is clear. -/
theorem resetHasInvariant : Obligations.ResetHasInvariant := by
  unfold Obligations.ResetHasInvariant
  decide

/-! ### Construction -/

/-- An address that is not listed reads as its reset content. -/
theorem readCell_of_not_mem {m : Memory} {a : Nat} (h : ∀ c ∈ m, c.1 ≠ a) : readCell m a = resetByte a := by
  induction m with
  | nil => rfl
  | cons c m ih =>
    obtain ⟨hc, hm⟩ := List.forall_mem_cons.1 h
    rw [readCell_cons, if_neg hc, ih hm]

theorem mem_imageMemory {n : Nat} {image : List Byte} {c : Host.Cell} :
    c ∈ imageMemory n image ↔ c.1 < n ∧ c.2 = image.getD c.1 fillByte ∧ c.2 ≠ resetByte c.1 := by
  obtain ⟨a, v⟩ := c
  simp only [imageMemory, List.mem_filter, List.mem_map, List.mem_range, Prod.mk.injEq, decide_eq_true_eq]
  constructor
  · rintro ⟨⟨b, hb, rfl, rfl⟩, hv⟩
    exact ⟨hb, rfl, hv⟩
  · rintro ⟨ha, rfl, hv⟩
    exact ⟨⟨a, ha, rfl, rfl⟩, hv⟩

/-- The memory of construction reads the image from address 0 and the fill byte after it, up to its size. -/
theorem readCell_imageMemory {n a : Nat} (image : List Byte) (ha : a < n) :
    readCell (imageMemory n image) a = image.getD a fillByte := by
  by_cases hv : image.getD a fillByte = resetByte a
  · rw [hv]
    refine readCell_of_not_mem fun c hc hca => ?_
    obtain ⟨-, hval, hne⟩ := mem_imageMemory.1 hc
    exact hne (by rw [hval, hca, hv])
  · exact readCell_of_mem _ (imageMemory_wf n image) (a, image.getD a fillByte) (mem_imageMemory.2 ⟨ha, rfl, hv⟩)

theorem construct_badMap {p : Params} (image : List Byte) (hp : legalMap p.opcodeMap = false) :
    construct p image = .refused .badOpcodeMap := if_pos hp

theorem construct_badImage {p : Params} {image : List Byte} (hp : legalMap p.opcodeMap = true)
    (hi : image = [] ∨ memSize p < image.length) : construct p image = .refused .badBootImage := by
  rw [construct, if_neg (by simp [hp]), if_pos hi]

theorem construct_legal {p : Params} {image : List Byte} (hp : legalMap p.opcodeMap = true) (hne : image ≠ [])
    (hlen : image.length ≤ memSize p) :
    construct p image = .next { State.reset with mem := imageMemory (memSize p) image, params := p } := by
  rw [construct, if_neg (by simp [hp]), if_neg (by simp [hne, hlen])]

/-- Settles O59: the constructed memory lists the cells of the image that differ from their reset content, all of them
below MEM_SIZE. -/
theorem constructionFillsMemory : Obligations.ConstructionFillsMemory := by
  refine fun p image => ⟨construct_badMap image, construct_badImage, fun hp hne hlen =>
    ⟨_, construct_legal hp hne hlen, rfl, fun a ha => ?reads, hp, imageMemory_wf _ image, ?range,
      show FlagsLegal 0#8 by decide, rfl⟩⟩
  case reads =>
    rw [readCell_imageMemory image ha, List.getD_eq_getElem?_getD]
    split
    next h => rw [List.getElem?_eq_getElem h]; rfl
    next h => rw [List.getElem?_eq_none (by omega)]; rfl
  case range =>
    rw [memoryInRange_iff]
    intro c hc
    exact (mem_imageMemory.1 hc).1

/-- Settles O57: the default image is the reset content, so construction lists no cell. -/
theorem resetValues : Obligations.ResetValues := by
  refine ⟨by decide, by decide, fun a ha => ?fill, ?construct⟩
  case fill =>
    have hlen : bootImage.length ≤ a := ha
    rw [State.reset, readCell_nil, resetByte, List.getD_eq_default _ _ hlen]
    rfl
  case construct =>
    have hmem : imageMemory (memSize defaultParams) bootImage = [] := by
      rw [List.eq_nil_iff_forall_not_mem]
      intro c hc
      obtain ⟨-, hval, hne⟩ := mem_imageMemory.1 hc
      exact hne hval
    rw [construct_legal (by decide) (by decide) (by decide), hmem]
    rfl

end Sys2Proof.Proofs
end

section
/-! PROOF. The execute stage of every instruction as one of sixteen shapes over the shared operations, and what a shape does
as a plain function of the state: the addresses it accesses, its divisor, and the effect it has where no access and no
division raises. `exec_of_outside`, `exec_of_divisor_zero` and `exec_of_completes` say this of `exec`; the proofs about
instructions go through them. -/

namespace Sys2Proof.Proofs

open Sys2Proof.Machine

/-- The operand of a call, a jump or a branch: never a memory cell (30_encoding.md R98, R99). -/
inductive Target where
  | imm (v : Byte)
  | x
  | y

def Target.src : Target → Src
  | .imm v => .imm v
  | .x => .x
  | .y => .y

/-- The shapes of an execute stage. -/
inductive Stage where
  | move (d : Dst) (src : Src)
  | binary (op : Byte → Byte → Wide) (d : Dst) (src : Src)
  | divide (d : Dst) (src : Src)
  | update (op : Byte → Wide) (d : Dst)
  | call (w : Nat) (target : Target)
  | ret
  | jump (target : Target)
  | jumpIf (fl : Flag) (p : Polarity) (target : Target)
  | branch (target : Target)
  | branchIf (fl : Flag) (p : Polarity) (target : Target)
  | push (src : Src)
  | pop (d : Dst)
  | output (src : Src)
  | input (d : Dst)
  | noop
  | halt

/-- The shared operation of the model a shape stands for. -/
def Stage.run : Stage → State → Except Raise Effect
  | .move d src => Machine.move d src
  | .binary op d src => Machine.binary (total op) d src
  | .divide d src => Machine.binary Machine.divide d src
  | .update op d => Machine.update op d
  | .call w target => Machine.call w target.src
  | .ret => Machine.ret
  | .jump target => Machine.jump target.src
  | .jumpIf fl p target => Machine.jumpIf fl p target.src
  | .branch target => Machine.branch target.src
  | .branchIf fl p target => Machine.branchIf fl p target.src
  | .push src => pushFrom src
  | .pop d => popTo d
  | .output src => latchFrom src
  | .input d => latchTo d
  | .noop => Machine.noop
  | .halt => Machine.halt

/-- The shape of each instruction. -/
def stageOf : Instr → Stage
  | .ldXImm a => .move .x (.imm a) | .ldXY => .move .x .y | .ldXAtImm a => .move .x (.atImm a)
  | .ldXAtY => .move .x .atY | .ldYImm a => .move .y (.imm a) | .ldYX => .move .y .x
  | .ldYAtImm a => .move .y (.atImm a) | .ldYAtX => .move .y .atX | .ldSPImm a => .move .sp (.imm a)
  | .stAtImmX a => .move (.atImm a) .x | .stAtImmY a => .move (.atImm a) .y | .stAtYX => .move .atY .x
  | .stAtXY => .move .atX .y | .ldXSP => .move .x .sp | .addXImm a => .binary addWide .x (.imm a)
  | .addXY => .binary addWide .x .y | .addXAtImm a => .binary addWide .x (.atImm a)
  | .addXAtY => .binary addWide .x .atY | .addYImm a => .binary addWide .y (.imm a) | .addYX => .binary addWide .y .x
  | .addYAtImm a => .binary addWide .y (.atImm a) | .addYAtX => .binary addWide .y .atX
  | .subXImm a => .binary subWide .x (.imm a) | .subXY => .binary subWide .x .y
  | .subXAtImm a => .binary subWide .x (.atImm a) | .subXAtY => .binary subWide .x .atY
  | .subYImm a => .binary subWide .y (.imm a) | .subYX => .binary subWide .y .x
  | .subYAtImm a => .binary subWide .y (.atImm a) | .subYAtX => .binary subWide .y .atX
  | .mulXImm a => .binary mulWide .x (.imm a) | .mulXY => .binary mulWide .x .y
  | .mulXAtImm a => .binary mulWide .x (.atImm a) | .mulXAtY => .binary mulWide .x .atY
  | .mulYImm a => .binary mulWide .y (.imm a) | .mulYX => .binary mulWide .y .x
  | .mulYAtImm a => .binary mulWide .y (.atImm a) | .mulYAtX => .binary mulWide .y .atX
  | .divXImm a => .divide .x (.imm a) | .divXY => .divide .x .y | .divXAtImm a => .divide .x (.atImm a)
  | .divXAtY => .divide .x .atY | .divYImm a => .divide .y (.imm a) | .divYX => .divide .y .x
  | .divYAtImm a => .divide .y (.atImm a) | .divYAtX => .divide .y .atX | .andXImm a => .binary andWide .x (.imm a)
  | .andXY => .binary andWide .x .y | .andXAtImm a => .binary andWide .x (.atImm a)
  | .andXAtY => .binary andWide .x .atY | .andYImm a => .binary andWide .y (.imm a) | .andYX => .binary andWide .y .x
  | .andYAtImm a => .binary andWide .y (.atImm a) | .andYAtX => .binary andWide .y .atX
  | .orXImm a => .binary orWide .x (.imm a) | .orXY => .binary orWide .x .y
  | .orXAtImm a => .binary orWide .x (.atImm a) | .orXAtY => .binary orWide .x .atY
  | .orYImm a => .binary orWide .y (.imm a) | .orYX => .binary orWide .y .x
  | .orYAtImm a => .binary orWide .y (.atImm a) | .orYAtX => .binary orWide .y .atX
  | .xorXImm a => .binary xorWide .x (.imm a) | .xorXY => .binary xorWide .x .y
  | .xorXAtImm a => .binary xorWide .x (.atImm a) | .xorXAtY => .binary xorWide .x .atY
  | .xorYImm a => .binary xorWide .y (.imm a) | .xorYX => .binary xorWide .y .x
  | .xorYAtImm a => .binary xorWide .y (.atImm a) | .xorYAtX => .binary xorWide .y .atX | .incX => .update incWide .x
  | .incY => .update incWide .y | .incAtImm a => .update incWide (.atImm a) | .incAtX => .update incWide .atX
  | .incAtY => .update incWide .atY | .decX => .update decWide .x | .decY => .update decWide .y
  | .decAtImm a => .update decWide (.atImm a) | .decAtX => .update decWide .atX | .decAtY => .update decWide .atY
  | .clrX => .update clrWide .x | .clrY => .update clrWide .y | .clrAtImm a => .update clrWide (.atImm a)
  | .clrAtX => .update clrWide .atX | .clrAtY => .update clrWide .atY | .callImm a => .call 2 (.imm a)
  | .callX => .call 1 .x | .callY => .call 1 .y | .ret => .ret | .jmpImm a => .jump (.imm a) | .jmpX => .jump .x
  | .jmpY => .jump .y | .joImm a => .jumpIf .o .ifSet (.imm a) | .joX => .jumpIf .o .ifSet .x
  | .joY => .jumpIf .o .ifSet .y | .jnoImm a => .jumpIf .o .ifClear (.imm a) | .jnoX => .jumpIf .o .ifClear .x
  | .jnoY => .jumpIf .o .ifClear .y | .jzImm a => .jumpIf .z .ifSet (.imm a) | .jzX => .jumpIf .z .ifSet .x
  | .jzY => .jumpIf .z .ifSet .y | .jnzImm a => .jumpIf .z .ifClear (.imm a) | .jnzX => .jumpIf .z .ifClear .x
  | .jnzY => .jumpIf .z .ifClear .y | .jtImm a => .jumpIf .t .ifSet (.imm a) | .jtX => .jumpIf .t .ifSet .x
  | .jtY => .jumpIf .t .ifSet .y | .jntImm a => .jumpIf .t .ifClear (.imm a) | .jntX => .jumpIf .t .ifClear .x
  | .jntY => .jumpIf .t .ifClear .y | .jcImm a => .jumpIf .c .ifSet (.imm a) | .jcX => .jumpIf .c .ifSet .x
  | .jcY => .jumpIf .c .ifSet .y | .jncImm a => .jumpIf .c .ifClear (.imm a) | .jncX => .jumpIf .c .ifClear .x
  | .jncY => .jumpIf .c .ifClear .y | .brImm a => .branch (.imm a) | .brX => .branch .x | .brY => .branch .y
  | .boImm a => .branchIf .o .ifSet (.imm a) | .boX => .branchIf .o .ifSet .x | .boY => .branchIf .o .ifSet .y
  | .bnoImm a => .branchIf .o .ifClear (.imm a) | .bnoX => .branchIf .o .ifClear .x
  | .bnoY => .branchIf .o .ifClear .y | .bzImm a => .branchIf .z .ifSet (.imm a) | .bzX => .branchIf .z .ifSet .x
  | .bzY => .branchIf .z .ifSet .y | .bnzImm a => .branchIf .z .ifClear (.imm a) | .bnzX => .branchIf .z .ifClear .x
  | .bnzY => .branchIf .z .ifClear .y | .btImm a => .branchIf .t .ifSet (.imm a) | .btX => .branchIf .t .ifSet .x
  | .btY => .branchIf .t .ifSet .y | .bntImm a => .branchIf .t .ifClear (.imm a) | .bntX => .branchIf .t .ifClear .x
  | .bntY => .branchIf .t .ifClear .y | .bcImm a => .branchIf .c .ifSet (.imm a) | .bcX => .branchIf .c .ifSet .x
  | .bcY => .branchIf .c .ifSet .y | .bncImm a => .branchIf .c .ifClear (.imm a) | .bncX => .branchIf .c .ifClear .x
  | .bncY => .branchIf .c .ifClear .y | .pushImm a => .push (.imm a) | .pushAtImm a => .push (.atImm a)
  | .pushAtX => .push .atX | .pushAtY => .push .atY | .pushX => .push .x | .pushY => .push .y
  | .popAtImm a => .pop (.atImm a) | .popX => .pop .x | .popY => .pop .y | .popAtX => .pop .atX | .outX => .output .x
  | .outY => .output .y | .outAtImm a => .output (.atImm a) | .outAtX => .output .atX | .outAtY => .output .atY
  | .inX => .input .x | .inY => .input .y | .inAtImm a => .input (.atImm a) | .inAtX => .input .atX
  | .inAtY => .input .atY | .nop => .noop | .hlt => .halt | .unimplemented _ => .noop

/-- Every meaning is its shape's operation, ended by `complete`. -/
theorem exec_eq_complete (i : Instr) (s : State) : exec i s = complete i s ((stageOf i).run s) := by cases i <;> rfl

/-! ### Operands without faults -/

/-- The addresses of memory an operand source reads. -/
def srcAddrs : Src → State → List Byte
  | .atImm a, _ => [a]
  | .atX, s => [s.x]
  | .atY, s => [s.y]
  | _, _ => []

/-- The byte of an operand source whose address, if any, is within memory. -/
def srcValue : Src → State → Byte
  | .imm v, _ => v
  | .x, s => s.x
  | .y, s => s.y
  | .sp, s => s.sp
  | .atImm a, s => readCell s.mem a.toNat
  | .atX, s => readCell s.mem s.x.toNat
  | .atY, s => readCell s.mem s.y.toNat

/-- The addresses of memory a destination names. -/
def dstAddrs (d : Dst) : State → List Byte := srcAddrs (sourceOf d)

/-- The state after a write to a destination whose address, if any, is within memory. -/
def dstWrite : Dst → Byte → State → State
  | .x, v, s => { s with x := v }
  | .y, v, s => { s with y := v }
  | .sp, v, s => { s with sp := v }
  | .atImm a, v, s => { s with mem := writeCell s.mem a.toNat v }
  | .atX, v, s => { s with mem := writeCell s.mem s.x.toNat v }
  | .atY, v, s => { s with mem := writeCell s.mem s.y.toNat v }

section dstWrite
variable (d : Dst) (v : Byte) (s : State)
@[simp] theorem dstWrite_io : (dstWrite d v s).io = s.io := by cases d <;> rfl
@[simp] theorem dstWrite_pc : (dstWrite d v s).pc = s.pc := by cases d <;> rfl
@[simp] theorem dstWrite_f : (dstWrite d v s).f = s.f := by cases d <;> rfl
@[simp] theorem dstWrite_run : (dstWrite d v s).run = s.run := by cases d <;> rfl
@[simp] theorem dstWrite_params : (dstWrite d v s).params = s.params := by cases d <;> rfl
end dstWrite

@[simp] theorem srcAddrs_target (t : Target) (s : State) : srcAddrs t.src s = [] := by cases t <;> rfl

/-- A destination's address register is not SP, so a pop before the write does not move it. -/
@[simp] theorem dstAddrs_withSp (d : Dst) (v : Byte) (s : State) : dstAddrs d { s with sp := v } = dstAddrs d s := by
  cases d <;> rfl

/-- The first of the addresses that is outside memory. -/
def firstOutside (s : State) (addrs : List Byte) : Option Byte :=
  addrs.find? fun a => decide (memSize s.params ≤ a.toNat)

/-- Accessing addresses in turn: the first one outside memory raises. -/
def checkAccess (s : State) (addrs : List Byte) : Except Raise Unit :=
  match firstOutside s addrs with
  | some a => .error (.memory a.toNat)
  | none => .ok ()

theorem checkAccess_of_some {s : State} {addrs : List Byte} {a : Byte} (h : firstOutside s addrs = some a) :
    checkAccess s addrs = .error (.memory a.toNat) := by simp only [checkAccess, h]

theorem checkAccess_of_none {s : State} {addrs : List Byte} (h : firstOutside s addrs = none) :
    checkAccess s addrs = .ok () := by
  simp only [checkAccess, h]

theorem checkAccess_singleton (s : State) (a : Byte) :
    checkAccess s [a] = if a.toNat < memSize s.params then .ok () else .error (.memory a.toNat) := by
  by_cases h : memSize s.params ≤ a.toNat
  · rw [checkAccess_of_some (a := a) (by simp [firstOutside, h]), if_neg (by omega)]
  · rw [checkAccess_of_none (by simp [firstOutside, h]), if_pos (by omega)]

theorem checkAccess_append (s : State) (as bs : List Byte) :
    checkAccess s (as ++ bs) = checkAccess s as >>= fun _ => checkAccess s bs := by
  have happend : firstOutside s (as ++ bs) = (firstOutside s as).or (firstOutside s bs) := List.find?_append
  cases h : firstOutside s as with
  | some a => rw [checkAccess_of_some h, checkAccess_of_some (happend.trans (by rw [h]; rfl))]; rfl
  | none =>
    rw [checkAccess_of_none h, checkAccess, happend, h]
    rfl

/-- A second access to the same addresses raises nothing new. -/
theorem checkAccess_again {α : Type} (s : State) (addrs : List Byte) (k : Except Raise Unit → Except Raise α) :
    (checkAccess s addrs >>= fun _ => k (checkAccess s addrs)) = checkAccess s addrs >>= fun _ => k (.ok ()) := by
  cases checkAccess s addrs <;> rfl

theorem memRead_eq (a : Byte) (s : State) :
    memRead a.toNat s = checkAccess s [a] >>= fun _ => .ok (readCell s.mem a.toNat) := by
  rw [checkAccess_singleton, memRead]
  split <;> rfl

theorem memWrite_eq (a v : Byte) (s : State) :
    memWrite a.toNat v s = checkAccess s [a] >>= fun _ => .ok { s with mem := writeCell s.mem a.toNat v } := by
  rw [checkAccess_singleton, memWrite]
  split <;> rfl

theorem val_eq (src : Src) (s : State) :
    val src s = checkAccess s (srcAddrs src s) >>= fun _ => .ok (srcValue src s) := by
  cases src with
  | atImm a => exact memRead_eq a s
  | atX => exact memRead_eq s.x s
  | atY => exact memRead_eq s.y s
  | _ => rfl

theorem writeTo_eq (d : Dst) (v : Byte) (s : State) :
    writeTo d v s = checkAccess s (dstAddrs d s) >>= fun _ => .ok (dstWrite d v s) := by
  cases d with
  | atImm a => exact memWrite_eq a v s
  | atX => exact memWrite_eq s.x v s
  | atY => exact memWrite_eq s.y v s
  | _ => rfl

/-- The state after a push within memory. -/
def pushed (v : Byte) (s : State) : State := { s with mem := writeCell s.mem s.sp.toNat v, sp := s.sp + 1#8 }

/-- The byte a pop within memory takes. -/
def popped (s : State) : Byte := readCell s.mem (s.sp - 1#8).toNat

theorem push_eq (v : Byte) (s : State) : push v s = checkAccess s [s.sp] >>= fun _ => .ok (pushed v s) := by
  rw [push, memWrite_eq, checkAccess_singleton]
  split <;> rfl

theorem pop_eq (s : State) :
    pop s = checkAccess s [s.sp - 1#8] >>= fun _ => .ok (popped s, { s with sp := s.sp - 1#8 }) := by
  rw [checkAccess_singleton]
  rcases pop_cases s with ⟨h, hp⟩ | ⟨h, hp⟩
  · rw [hp, if_pos h]; rfl
  · rw [hp, if_neg (by omega)]; rfl

/-- The state after a result within memory is written: the destination has its low byte, and the flags follow it. -/
def resultIn (d : Dst) (t : Wide) (s : State) : State := { dstWrite d (lowByte t) s with f := applyFlags t s.f }

theorem writeResult_eq (d : Dst) (t : Wide) (s : State) :
    writeResult d t s = checkAccess s (dstAddrs d s) >>= fun _ => .ok (fallThrough (resultIn d t s)) := by
  simp only [writeResult, writeTo_eq, bind_assoc]
  simp only [bind, Except.bind, pure, Except.pure, resultIn, dstWrite_f]

/-! ### Shapes without faults -/

namespace Stage

/-- The addresses a shape accesses, in order. -/
def addrs : Stage → State → List Byte
  | .move d src, s => srcAddrs src s ++ dstAddrs d s
  | .binary _ d src, s => dstAddrs d s ++ srcAddrs src s
  | .divide d src, s => dstAddrs d s ++ srcAddrs src s
  | .update _ d, s => dstAddrs d s
  | .call _ _, s => [s.sp]
  | .ret, s => [s.sp - 1#8]
  | .push src, s => srcAddrs src s ++ [s.sp]
  | .pop d, s => [s.sp - 1#8] ++ dstAddrs d s
  | .output src, s => srcAddrs src s
  | .input d, s => dstAddrs d s
  | .jump _, _ => []
  | .jumpIf _ _ _, _ => []
  | .branch _, _ => []
  | .branchIf _ _ _, _ => []
  | .noop, _ => []
  | .halt, _ => []

/-- The divisor of a division. -/
def divisor : Stage → State → Option Byte
  | .divide _ src, s => some (srcValue src s)
  | _, _ => none

/-- A relative branch that is taken (40_engine_cycle.md R133). -/
def branchEffect (target : Target) (s : State) : Effect :=
  let t := relAdd s.pc (srcValue target.src s)
  assignPc (lowByte t) { s with f := applyFlags t s.f }

/-- HLT (49_io_nop_halt.md R367). -/
def haltState (s : State) : State :=
  match s.params.haltBehavior with
  | .terminate => { s with run := .stopped }
  | .spin => if flagSet .t s.f then s else { s with run := .halted }

/-- What a shape leaves where nothing raises. -/
def effect : Stage → State → Effect
  | .move d src, s => fallThrough (dstWrite d (srcValue src s) s)
  | .binary op d src, s => fallThrough (resultIn d (op (srcValue (sourceOf d) s) (srcValue src s)) s)
  | .divide d src, s => fallThrough (resultIn d (divWide (srcValue (sourceOf d) s) (srcValue src s)) s)
  | .update op d, s => fallThrough (resultIn d (op (srcValue (sourceOf d) s)) s)
  | .call w target, s => assignPc (srcValue target.src s) (pushed (s.pc + BitVec.ofNat 8 w) s)
  | .ret, s => assignPc (popped s) { s with sp := s.sp - 1#8 }
  | .jump target, s => assignPc (srcValue target.src s) s
  | .jumpIf fl p target, s => if condHolds fl p s.f then assignPc (srcValue target.src s) s else fallThrough s
  | .branch target, s => branchEffect target s
  | .branchIf fl p target, s => if condHolds fl p s.f then branchEffect target s else fallThrough s
  | .push src, s => fallThrough (pushed (srcValue src s) s)
  | .pop d, s => fallThrough (dstWrite d (popped s) { s with sp := s.sp - 1#8 })
  | .output src, s => fallThrough { s with io := srcValue src s }
  | .input d, s => fallThrough (dstWrite d s.io s)
  | .noop, s => fallThrough s
  | .halt, s => fallThrough (haltState s)

/-- A division by zero raises. -/
def checkDivisor : Option Byte → Except Raise Unit
  | some b => if b = 0#8 then .error (.arithmetic b) else .ok ()
  | none => .ok ()

theorem divide_eq (a b : Byte) :
    Machine.divide a b = checkDivisor (some b) >>= fun _ => .ok (divWide a b) := by
  rw [Machine.divide, checkDivisor]
  split <;> rfl

/-- A branch, whose operand is never in memory, raises nothing. -/
theorem branch_eq (target : Target) (s : State) : Machine.branch target.src s = .ok (branchEffect target s) := by
  rw [Machine.branch, val_eq, srcAddrs_target]
  rfl

theorem jump_eq (target : Target) (s : State) :
    Machine.jump target.src s = .ok (assignPc (srcValue target.src s) s) := by
  rw [Machine.jump, val_eq, srcAddrs_target]
  rfl

/-- A shape accesses its addresses in turn, then checks its divisor, and then has its effect. -/
theorem run_eq (st : Stage) (s : State) : st.run s =
    checkAccess s (st.addrs s) >>= fun _ => checkDivisor (st.divisor s) >>= fun _ => .ok (st.effect s) := by
  cases st with
  | move d src =>
    simp only [run, addrs, Machine.move, val_eq, writeTo_eq, checkAccess_append, bind_assoc]
    rfl
  | binary op d src =>
    simp only [run, addrs, Machine.binary, val_eq, writeResult_eq, checkAccess_append, bind_assoc]
    exact checkAccess_again s (dstAddrs d s) fun again => checkAccess s (srcAddrs src s) >>= fun _ => again >>= fun _ => _
  | divide d src =>
    simp only [run, addrs, Machine.binary, val_eq, writeResult_eq, checkAccess_append, bind_assoc, divide_eq]
    exact checkAccess_again s (dstAddrs d s) fun again =>
      checkAccess s (srcAddrs src s) >>= fun _ => checkDivisor (some (srcValue src s)) >>= fun _ => again >>= fun _ => _
  | update op d =>
    simp only [run, addrs, Machine.update, val_eq, writeResult_eq, bind_assoc]
    exact checkAccess_again s (dstAddrs d s) fun again => again >>= fun _ => _
  | call w target =>
    simp only [run, addrs, Machine.call, val_eq, srcAddrs_target, push_eq, bind_assoc]
    rfl
  | ret =>
    simp only [run, addrs, Machine.ret, pop_eq, bind_assoc]
    rfl
  | jump target => exact jump_eq target s
  | jumpIf fl p target =>
    rw [run, Machine.jumpIf, jump_eq, ← apply_ite]
    rfl
  | branch target => exact branch_eq target s
  | branchIf fl p target =>
    rw [run, Machine.branchIf, branch_eq, ← apply_ite]
    rfl
  | push src =>
    simp only [run, addrs, pushFrom, val_eq, push_eq, checkAccess_append, bind_assoc]
    rfl
  | pop d =>
    simp only [run, addrs, popTo, pop_eq, writeTo_eq, checkAccess_append, bind_assoc,
      ← dstAddrs_withSp d (s.sp - 1#8) s]
    rfl
  | output src =>
    simp only [run, addrs, latchFrom, val_eq, bind_assoc]
    rfl
  | input d =>
    simp only [run, addrs, latchTo, writeTo_eq, bind_assoc]
    rfl
  | noop => rfl
  | halt =>
    cases h : s.params.haltBehavior <;> simp only [run, Machine.halt, effect, haltState, h] <;> rfl

end Stage

/-! ### Instructions -/

theorem accesses_eq (i : Instr) (s : State) : accesses i s = (stageOf i).addrs s := by cases i <;> rfl

theorem divisor_eq (i : Instr) (s : State) : divisor i s = (stageOf i).divisor s := by cases i <;> rfl

/-- The state at the end of the cycle of `i`, after an execute stage that raised nothing. -/
def finish (i : Instr) (e : Effect) : State :=
  if e.pcAssigned = false ∧ e.state.run = .running then advancePc (widthOf i) e.state else e.state

section finish
variable (i : Instr) (e : Effect)

/-- The end of a cycle changes nothing but PC. -/
theorem finish_frame : finish i e = { e.state with pc := (finish i e).pc } := by
  unfold finish
  split <;> rfl

@[simp] theorem finish_x : (finish i e).x = e.state.x := by rw [finish_frame]
@[simp] theorem finish_y : (finish i e).y = e.state.y := by rw [finish_frame]
@[simp] theorem finish_io : (finish i e).io = e.state.io := by rw [finish_frame]
@[simp] theorem finish_sp : (finish i e).sp = e.state.sp := by rw [finish_frame]
@[simp] theorem finish_f : (finish i e).f = e.state.f := by rw [finish_frame]
@[simp] theorem finish_mem : (finish i e).mem = e.state.mem := by rw [finish_frame]
@[simp] theorem finish_run : (finish i e).run = e.state.run := by rw [finish_frame]
@[simp] theorem finish_params : (finish i e).params = e.state.params := by rw [finish_frame]

theorem finish_assignPc (a : Byte) (t : State) : finish i (assignPc a t) = { t with pc := a } := by simp [finish]

theorem finish_fallThrough {t : State} (h : t.run = .running) : finish i (fallThrough t) = advancePc (widthOf i) t := by
  simp [finish, h]

theorem finish_notRunning {t : State} (h : t.run ≠ .running) : finish i (fallThrough t) = t := by simp [finish, h]

end finish

section exec
variable {i : Instr} {s t : State}

/-- The first access outside memory faults. -/
theorem exec_of_outside {a : Byte} (h : firstOutside s (accesses i s) = some a) :
    exec i s = .next (raiseFault (some (opcodeAtPc s)) (.memory a.toNat) s) := by
  rw [accesses_eq] at h
  rw [exec_eq_complete, Stage.run_eq, checkAccess_of_some h]
  rfl

/-- With every access within memory, a division by zero faults. -/
theorem exec_of_divisor_zero (hin : firstOutside s (accesses i s) = none)
    (hd : divisor i s = some 0#8) : exec i s = .next (raiseFault (some (opcodeAtPc s)) (.arithmetic 0#8) s) := by
  rw [accesses_eq] at hin
  rw [divisor_eq] at hd
  rw [exec_eq_complete, Stage.run_eq, checkAccess_of_none hin, hd]
  rfl

/-- With every access within memory and no division by zero, the instruction has its effect. -/
theorem exec_of_completes (hin : firstOutside s (accesses i s) = none)
    (hd : divisor i s ≠ some 0#8) : exec i s = .next (finish i ((stageOf i).effect s)) := by
  rw [accesses_eq] at hin
  rw [divisor_eq] at hd
  rw [exec_eq_complete, Stage.run_eq, checkAccess_of_none hin]
  cases h : (stageOf i).divisor s with
  | none => rfl
  | some b =>
    have hb : b ≠ 0#8 := fun hb => hd (h.trans (congrArg some hb))
    simp only [Stage.checkDivisor, if_neg hb]
    rfl

/-- Everything `exec` can answer, with what it faults for. -/
theorem exec_outcomes (i : Instr) (s : State) :
    (∃ a ∈ accesses i s, memSize s.params ≤ a.toNat ∧
      exec i s = .next (raiseFault (some (opcodeAtPc s)) (.memory a.toNat) s)) ∨
    (divisor i s = some 0#8 ∧ exec i s = .next (raiseFault (some (opcodeAtPc s)) (.arithmetic 0#8) s)) ∨
    exec i s = .next (finish i ((stageOf i).effect s)) := by
  cases h : firstOutside s (accesses i s) with
  | some a => exact .inl ⟨a, List.mem_of_find?_eq_some h, by simpa using List.find?_some h, exec_of_outside h⟩
  | none =>
    by_cases hd : divisor i s = some 0#8
    · exact .inr (.inl ⟨hd, exec_of_divisor_zero h hd⟩)
    · exact .inr (.inr (exec_of_completes h hd))

/-- What an answer of `exec` is: a fault taken, or the effect of the instruction. -/
theorem exec_eq_next (h : exec i s = .next t) :
    (∃ r, t = raiseFault (some (opcodeAtPc s)) r s) ∨ t = finish i ((stageOf i).effect s) := by
  rcases exec_outcomes i s with ⟨a, -, -, hx⟩ | ⟨-, hx⟩ | hx <;> cases hx.symm.trans h
  · exact .inl ⟨_, rfl⟩
  · exact .inl ⟨_, rfl⟩
  · exact .inr rfl

end exec

end Sys2Proof.Proofs
end

section
/-! PROOF. Memory, the flags and the conditional test; for each shape one lemma that says what an instruction of that shape
leaves where its accesses are within memory; and the loads and stores (41_load_store.md) as uses of it. -/

namespace Sys2Proof.Proofs

open Sys2Proof.Machine Sys2Proof.Claims

/-! ### Memory -/

/-- Settles O14: MemWrite within memory writes the one cell, and outside memory it raises as MemRead does. -/
theorem readAfterWrite : Obligations.ReadAfterWrite := by
  refine fun s a v => ⟨fun ha => ⟨_, memWrite_of_lt ha, rfl, ?same, fun b hb => ?other, writeCell_wf s.mem a v⟩,
    fun ha => ⟨memWrite_of_ge ha, memRead_of_ge ha⟩⟩
  case same => exact memRead_eq_ok.2 ⟨ha, (readCell_writeCell_same s.mem a v).symm⟩
  case other => simp only [memRead, readCell_writeCell_other s.mem v hb]

/-- A canonical memory lists exactly the cells that read otherwise than their reset content. -/
theorem mem_iff_of_wf {m : Memory} (hm : Memory.wf m = true) (c : Host.Cell) :
    c ∈ m ↔ readCell m c.1 = c.2 ∧ c.2 ≠ resetByte c.1 := by
  constructor
  · exact fun hc => ⟨readCell_of_mem m hm c hc, ((wf_iff m).1 hm).2 c hc⟩
  · rintro ⟨hread, hne⟩
    by_contra hc
    have hlisted : ∃ d ∈ m, d.1 = c.1 := by
      by_contra hnone
      exact hne (hread ▸ readCell_of_not_mem fun d hd he => hnone ⟨d, hd, he⟩)
    obtain ⟨d, hd, he⟩ := hlisted
    have hval : d.2 = c.2 := by rw [← readCell_of_mem m hm d hd, he, hread]
    exact hc (Prod.ext he hval ▸ hd)

/-- Settles O15: both lists hold the same cells, in the order of their addresses. -/
theorem equalReadsEqualMemory : Obligations.EqualReadsEqualMemory := by
  intro m m' hm hm' hread
  have hrise : ∀ {m : Memory}, Memory.wf m = true → m.Pairwise (fun c d => c.1 < d.1) := fun h =>
    List.pairwise_map.1 ((wf_iff _).1 h).1
  have : Std.Irrefl (fun c d : Host.Cell => c.1 < d.1) := ⟨fun c => Nat.lt_irrefl c.1⟩
  refine List.Pairwise.eq_of_mem_iff (hrise hm) (hrise hm') fun {c} => ?_
  rw [mem_iff_of_wf hm, mem_iff_of_wf hm', hread]

/-! ### Flags and conditions -/

theorem flagsFrom_applyFlags (t : Wide) (f : Byte) : FlagsFrom t.toNat f (applyFlags t f) := by
  refine ⟨?overflow, ?zero, ?carry, fun k hk => applyFlags_bit_ge hk t f⟩
  case overflow =>
    rw [applyFlags_getLsbD, if_pos rfl, ← highByte_toNat]
    simp [← BitVec.toNat_inj]
  case zero =>
    rw [applyFlags_getLsbD, if_neg (by decide), if_pos rfl, ← lowByte_toNat]
    simp [← BitVec.toNat_inj]
  case carry =>
    rw [applyFlags_getLsbD, if_neg (by decide), if_neg (by decide), if_pos rfl]
    rfl

/-- Settles O16: O, Z and C are read off the 16-bit result, and C is the lowest bit of its high byte. -/
theorem flagUpdatePolicy : Obligations.FlagUpdatePolicy :=
  fun t f => ⟨flagsFrom_applyFlags t f, flagSet_o_of_c_applyFlags t f⟩

/-- The value of the flag a polarity asks for. -/
def polarityBit : Polarity → Bool
  | .ifSet => true
  | .ifClear => false

theorem condHolds_iff (fl : Flag) (p : Polarity) (f : Byte) :
    condHolds fl p f = true ↔ f ≠ 0#8 ∧ f.getLsbD (flagBit fl) = polarityBit p := by
  cases p <;> simp [condHolds, polarityBit, flagSet]

/-! ### Completing -/

/-- The addresses are within memory. -/
def Within (s : State) (addrs : List Byte) : Prop := ∀ a ∈ addrs, a.toNat < memSize s.params

theorem within_nil {s : State} : Within s [] := List.forall_mem_nil _

theorem within_one {s : State} {a : Byte} (h : a.toNat < memSize s.params) : Within s [a] := List.forall_mem_singleton.2 h

theorem within_two {s : State} {a b : Byte} (ha : a.toNat < memSize s.params) (hb : b.toNat < memSize s.params) :
    Within s [a, b] := List.forall_mem_cons.2 ⟨ha, within_one hb⟩

theorem firstOutside_of_within {s : State} {addrs : List Byte} (h : Within s addrs) :
    firstOutside s addrs = none := by
  simpa [firstOutside, List.find?_eq_none, Within] using h

section shapes
variable {s t : State} {st : Stage} (i : Instr)

/-- An instruction whose accesses are within memory, and which is no division by zero, has its effect. -/
theorem exec_of_within (hi : stageOf i = st) (hin : Within s (accesses i s)) (hd : st.divisor s ≠ some 0#8) :
    exec i s = .next (finish i (st.effect s)) := by
  subst hi
  exact exec_of_completes (firstOutside_of_within hin) (divisor_eq i s ▸ hd)

theorem exec_fallThrough (hi : stageOf i = st) (hin : Within s (accesses i s)) (hd : st.divisor s ≠ some 0#8)
    (he : st.effect s = fallThrough t) (ht : t.run = .running) : exec i s = .next (advancePc (widthOf i) t) := by
  rw [exec_of_within i hi hin hd, he, finish_fallThrough i ht]

theorem exec_assignPc {a : Byte} (hi : stageOf i = st) (hin : Within s (accesses i s)) (hd : st.divisor s ≠ some 0#8)
    (he : st.effect s = assignPc a t) : exec i s = .next { t with pc := a } := by
  rw [exec_of_within i hi hin hd, he, finish_assignPc]

variable (hin : Within s (accesses i s)) (hrun : s.run = .running)
include hin hrun

theorem exec_move {d : Dst} {src : Src} (hi : stageOf i = .move d src) :
    exec i s = .next (advancePc (widthOf i) (dstWrite d (srcValue src s) s)) :=
  exec_fallThrough i hi hin nofun rfl (by rwa [dstWrite_run])

theorem exec_push {src : Src} (hi : stageOf i = .push src) :
    exec i s = .next (advancePc (widthOf i) (pushed (srcValue src s) s)) :=
  exec_fallThrough i hi hin nofun rfl hrun

theorem exec_pop {d : Dst} (hi : stageOf i = .pop d) :
    exec i s = .next (advancePc (widthOf i) (dstWrite d (popped s) { s with sp := s.sp - 1#8 })) :=
  exec_fallThrough i hi hin nofun rfl (by rwa [dstWrite_run])

theorem exec_output {src : Src} (hi : stageOf i = .output src) :
    exec i s = .next (advancePc (widthOf i) { s with io := srcValue src s }) :=
  exec_fallThrough i hi hin nofun rfl hrun

theorem exec_input {d : Dst} (hi : stageOf i = .input d) :
    exec i s = .next (advancePc (widthOf i) (dstWrite d s.io s)) :=
  exec_fallThrough i hi hin nofun rfl (by rwa [dstWrite_run])

theorem exec_update {op : Byte → Wide} {d : Dst} (hi : stageOf i = .update op d) :
    exec i s = .next (advancePc (widthOf i) (resultIn d (op (srcValue (sourceOf d) s)) s)) :=
  exec_fallThrough i hi hin nofun rfl (by rwa [resultIn, dstWrite_run])

theorem exec_binary {op : Byte → Byte → Wide} {d : Dst} {src : Src} (hi : stageOf i = .binary op d src) :
    exec i s = .next (advancePc (widthOf i) (resultIn d (op (srcValue (sourceOf d) s) (srcValue src s)) s)) :=
  exec_fallThrough i hi hin nofun rfl (by rwa [resultIn, dstWrite_run])

theorem exec_divide {d : Dst} {src : Src} (hi : stageOf i = .divide d src) (hne : srcValue src s ≠ 0#8) :
    exec i s = .next (advancePc (widthOf i) (resultIn d (divWide (srcValue (sourceOf d) s) (srcValue src s)) s)) :=
  exec_fallThrough i hi hin (fun h => hne (Option.some.inj h)) rfl (by rwa [resultIn, dstWrite_run])

end shapes

/-! ### Load and store -/

/-- Settles O20: a load is a move into a register. -/
theorem loadForms : Obligations.LoadForms := fun _ imm hrun =>
  ⟨exec_ldXImm imm hrun, exec_move .ldXY within_nil hrun rfl,
    exec_move (.ldYImm imm) within_nil hrun rfl, exec_move .ldYX within_nil hrun rfl,
    exec_ldSPImm imm hrun, exec_move .ldXSP within_nil hrun rfl,
    fun himm => ⟨exec_move (.ldXAtImm imm) (within_one himm) hrun rfl,
      exec_move (.ldYAtImm imm) (within_one himm) hrun rfl⟩,
    fun hy => exec_move .ldXAtY (within_one hy) hrun rfl, fun hx => exec_move .ldYAtX (within_one hx) hrun rfl⟩

/-- A write of one cell stores at it and nowhere else. -/
theorem storesAt_of_exec {i : Instr} {a v : Byte} {r s : State}
    (h : exec i s = .next { r with mem := writeCell s.mem a.toNat v }) : StoresAt i a v r s :=
  ⟨_, h, rfl, readCell_writeCell_same s.mem a.toNat v, fun _ hb => readCell_writeCell_other s.mem v hb⟩

/-- Settles O21: a store is a move to a cell. -/
theorem storeForms : Obligations.StoreForms := fun _ imm hrun =>
  ⟨fun himm => ⟨storesAt_of_exec (exec_move (.stAtImmX imm) (within_one himm) hrun rfl),
      storesAt_of_exec (exec_move (.stAtImmY imm) (within_one himm) hrun rfl)⟩,
    fun hy => storesAt_of_exec (exec_move .stAtYX (within_one hy) hrun rfl),
    fun hx => storesAt_of_exec (exec_move .stAtXY (within_one hx) hrun rfl)⟩

end Sys2Proof.Proofs
end

section
/-! PROOF. The families that set flags from a result: arithmetic and logic (42_arithmetic.md, 44_logic_and_clear.md),
increment and decrement (43_increment_decrement.md), and CLR. -/

namespace Sys2Proof.Proofs

open Sys2Proof.Machine Sys2Proof.Claims

/-! ### Where a result goes -/

section results
variable {i : Instr} {s : State} {t : Wide} {n : Nat} (hn : t.toNat = n)
include hn

theorem resultInX_of_exec (h : exec i s = .next (advancePc (widthOf i) (resultIn .x t s))) :
    ResultInX i n (widthOf i) s := by
  subst hn
  refine ⟨_, h, ?_, flagsFrom_applyFlags t s.f⟩
  rw [← lowByte_eq_ofNat]
  rfl

theorem resultInY_of_exec (h : exec i s = .next (advancePc (widthOf i) (resultIn .y t s))) :
    ResultInY i n (widthOf i) s := by
  subst hn
  refine ⟨_, h, ?_, flagsFrom_applyFlags t s.f⟩
  rw [← lowByte_eq_ofNat]
  rfl

theorem resultInCell_of_exec {d : Dst} {a : Byte}
    (hd : dstWrite d (lowByte t) s = { s with mem := writeCell s.mem a.toNat (lowByte t) })
    (h : exec i s = .next (advancePc (widthOf i) (resultIn d t s))) : ResultInCell i a n (widthOf i) s := by
  subst hn
  rw [resultIn, hd] at h
  refine ⟨_, h, rfl, ?_, fun b hb => readCell_writeCell_other s.mem _ hb, flagsFrom_applyFlags t s.f⟩
  rw [← lowByte_eq_ofNat]
  exact readCell_writeCell_same s.mem a.toNat (lowByte t)

end results

/-! ### Binary operations -/

/-- The instruction is the binary operation `op` of the operands, `w` bytes wide. -/
def IsBinary (op : Byte → Byte → Wide) (d : Dst) (src : Src) (w : Nat) (i : Instr) : Prop :=
  stageOf i = .binary op d src ∧ widthOf i = w

section binary
variable {op : Byte → Byte → Wide} {n : Nat → Nat → Nat} (hop : ∀ a b, (op a b).toNat = n a.toNat b.toNat)
  {s : State} (hrun : s.run = .running) {i : Instr} {src : Src} {w : Nat}
include hop hrun

theorem binary_resultInX (hi : IsBinary op .x src w i) (hin : Within s (srcAddrs src s)) :
    ResultInX i (n s.x.toNat (srcValue src s).toNat) w s := by
  obtain ⟨hstage, rfl⟩ := hi
  exact resultInX_of_exec (hop _ _) (exec_binary i (by rwa [accesses_eq, hstage]) hrun hstage)

theorem binary_resultInY (hi : IsBinary op .y src w i) (hin : Within s (srcAddrs src s)) :
    ResultInY i (n s.y.toNat (srcValue src s).toNat) w s := by
  obtain ⟨hstage, rfl⟩ := hi
  exact resultInY_of_exec (hop _ _) (exec_binary i (by rwa [accesses_eq, hstage]) hrun hstage)

/-- The eight forms of a binary operation (30_encoding.md R95), whose 16-bit result has the value `n` of its operands. -/
theorem binary_forms {imm : Byte} {xImm xY yImm yX xAtImm yAtImm xAtY yAtX : Instr}
    (hxImm : IsBinary op .x (.imm imm) 2 xImm) (hxY : IsBinary op .x .y 1 xY)
    (hyImm : IsBinary op .y (.imm imm) 2 yImm) (hyX : IsBinary op .y .x 1 yX)
    (hxAtImm : IsBinary op .x (.atImm imm) 2 xAtImm) (hyAtImm : IsBinary op .y (.atImm imm) 2 yAtImm)
    (hxAtY : IsBinary op .x .atY 1 xAtY) (hyAtX : IsBinary op .y .atX 1 yAtX) :
    ResultInX xImm (n s.x.toNat imm.toNat) 2 s ∧ ResultInX xY (n s.x.toNat s.y.toNat) 1 s ∧
    ResultInY yImm (n s.y.toNat imm.toNat) 2 s ∧ ResultInY yX (n s.y.toNat s.x.toNat) 1 s ∧
    (imm.toNat < memSize s.params → ResultInX xAtImm (n s.x.toNat (readCell s.mem imm.toNat).toNat) 2 s) ∧
    (imm.toNat < memSize s.params → ResultInY yAtImm (n s.y.toNat (readCell s.mem imm.toNat).toNat) 2 s) ∧
    (s.y.toNat < memSize s.params → ResultInX xAtY (n s.x.toNat (readCell s.mem s.y.toNat).toNat) 1 s) ∧
    (s.x.toNat < memSize s.params → ResultInY yAtX (n s.y.toNat (readCell s.mem s.x.toNat).toNat) 1 s) :=
  ⟨binary_resultInX hop hrun hxImm within_nil, binary_resultInX hop hrun hxY within_nil,
    binary_resultInY hop hrun hyImm within_nil, binary_resultInY hop hrun hyX within_nil,
    fun himm => binary_resultInX hop hrun hxAtImm (within_one himm),
    fun himm => binary_resultInY hop hrun hyAtImm (within_one himm),
    fun hy => binary_resultInX hop hrun hxAtY (within_one hy), fun hx => binary_resultInY hop hrun hyAtX (within_one hx)⟩

end binary

/-- Settles O22: the sum of two bytes is below 2^16. -/
theorem addForms : Obligations.AddForms := fun _ _ hrun =>
  binary_forms (n := fun a b => a + b) addWide_toNat hrun ⟨rfl, rfl⟩ ⟨rfl, rfl⟩ ⟨rfl, rfl⟩ ⟨rfl, rfl⟩
    ⟨rfl, rfl⟩ ⟨rfl, rfl⟩ ⟨rfl, rfl⟩ ⟨rfl, rfl⟩

/-- Settles O23: a borrow leaves the difference above 2^16 - 256. -/
theorem subForms : Obligations.SubForms := fun _ _ hrun =>
  binary_forms (n := difference) subWide_toNat hrun ⟨rfl, rfl⟩ ⟨rfl, rfl⟩ ⟨rfl, rfl⟩ ⟨rfl, rfl⟩
    ⟨rfl, rfl⟩ ⟨rfl, rfl⟩ ⟨rfl, rfl⟩ ⟨rfl, rfl⟩

/-- Settles O24: the product of two bytes is below 2^16. -/
theorem mulForms : Obligations.MulForms := fun _ _ hrun =>
  binary_forms (n := fun a b => a * b) mulWide_toNat hrun ⟨rfl, rfl⟩ ⟨rfl, rfl⟩ ⟨rfl, rfl⟩ ⟨rfl, rfl⟩
    ⟨rfl, rfl⟩ ⟨rfl, rfl⟩ ⟨rfl, rfl⟩ ⟨rfl, rfl⟩

/-- Settles O27: the 16-bit result is the bitwise and of the two bytes as numbers. -/
theorem andForms : Obligations.AndForms := fun _ _ hrun =>
  binary_forms (n := fun a b => a &&& b) andWide_toNat hrun ⟨rfl, rfl⟩ ⟨rfl, rfl⟩ ⟨rfl, rfl⟩ ⟨rfl, rfl⟩
    ⟨rfl, rfl⟩ ⟨rfl, rfl⟩ ⟨rfl, rfl⟩ ⟨rfl, rfl⟩

/-- Settles O28: the 16-bit result is the bitwise or of the two bytes as numbers. -/
theorem orForms : Obligations.OrForms := fun _ _ hrun =>
  binary_forms (n := fun a b => a ||| b) orWide_toNat hrun ⟨rfl, rfl⟩ ⟨rfl, rfl⟩ ⟨rfl, rfl⟩ ⟨rfl, rfl⟩
    ⟨rfl, rfl⟩ ⟨rfl, rfl⟩ ⟨rfl, rfl⟩ ⟨rfl, rfl⟩

/-- Settles O29: the 16-bit result is the bitwise exclusive or of the two bytes as numbers. -/
theorem xorForms : Obligations.XorForms := fun _ _ hrun =>
  binary_forms (n := fun a b => a ^^^ b) xorWide_toNat hrun ⟨rfl, rfl⟩ ⟨rfl, rfl⟩ ⟨rfl, rfl⟩ ⟨rfl, rfl⟩
    ⟨rfl, rfl⟩ ⟨rfl, rfl⟩ ⟨rfl, rfl⟩ ⟨rfl, rfl⟩

/-! ### Division -/

section divide
variable {s : State} (i : Instr) {src : Src} (hin : Within s (accesses i s))
include hin

theorem divide_resultInX (hrun : s.run = .running) (hi : stageOf i = .divide .x src) (hne : srcValue src s ≠ 0#8) :
    ResultInX i (s.x.toNat / (srcValue src s).toNat) (widthOf i) s :=
  resultInX_of_exec (divWide_toNat _ _) (exec_divide i hin hrun hi hne)

theorem divide_resultInY (hrun : s.run = .running) (hi : stageOf i = .divide .y src) (hne : srcValue src s ≠ 0#8) :
    ResultInY i (s.y.toNat / (srcValue src s).toNat) (widthOf i) s :=
  resultInY_of_exec (divWide_toNat _ _) (exec_divide i hin hrun hi hne)

/-- The record of a division by zero. -/
theorem exec_divide_zero (hd : divisor i s = some 0#8) : exec i s =
    .next { s with run := .faulted ⟨.arithmeticFault, some (readCell s.mem s.pc.toNat), s.pc, 0⟩ } :=
  exec_of_divisor_zero (firstOutside_of_within hin) hd

end divide

/-- Settles O25: a divisor other than 0 raises nothing. -/
theorem divForms : Obligations.DivForms := fun _ imm hrun =>
  ⟨divide_resultInX (.divXImm imm) within_nil hrun rfl, divide_resultInX .divXY within_nil hrun rfl,
    divide_resultInY (.divYImm imm) within_nil hrun rfl, divide_resultInY .divYX within_nil hrun rfl,
    fun himm => divide_resultInX (.divXAtImm imm) (within_one himm) hrun rfl,
    fun himm => divide_resultInY (.divYAtImm imm) (within_one himm) hrun rfl,
    fun hy => divide_resultInX .divXAtY (within_one hy) hrun rfl,
    fun hx => divide_resultInY .divYAtX (within_one hx) hrun rfl⟩

/-- Settles O26: a divisor of 0, once it is read, raises. -/
theorem divByZeroFaults : Obligations.DivByZeroFaults := fun _ =>
  ⟨exec_divide_zero (.divXImm 0#8) within_nil rfl, exec_divide_zero (.divYImm 0#8) within_nil rfl,
    fun hy => exec_divide_zero .divXY within_nil (congrArg some hy),
    fun hx => exec_divide_zero .divYX within_nil (congrArg some hx),
    fun a ha hv => ⟨exec_divide_zero (.divXAtImm a) (within_one ha) (congrArg some hv),
      exec_divide_zero (.divYAtImm a) (within_one ha) (congrArg some hv)⟩,
    fun hy hv => exec_divide_zero .divXAtY (within_one hy) (congrArg some hv),
    fun hx hv => exec_divide_zero .divYAtX (within_one hx) (congrArg some hv)⟩

/-! ### Read-modify-write -/

/-- The instruction is the read-modify-write `op` of the destination, `w` bytes wide. -/
def IsUpdate (op : Byte → Wide) (d : Dst) (w : Nat) (i : Instr) : Prop := stageOf i = .update op d ∧ widthOf i = w

section update
variable {op : Byte → Wide} {n : Nat → Nat} (hop : ∀ a, (op a).toNat = n a.toNat) {s : State} (hrun : s.run = .running)
include hop hrun

theorem update_resultInCell {i : Instr} {d : Dst} {a : Byte} {w : Nat} (hi : IsUpdate op d w i)
    (hsrc : srcValue (sourceOf d) s = readCell s.mem a.toNat)
    (hd : ∀ v, dstWrite d v s = { s with mem := writeCell s.mem a.toNat v }) (hin : Within s (dstAddrs d s)) :
    ResultInCell i a (n (readCell s.mem a.toNat).toNat) w s := by
  obtain ⟨hstage, rfl⟩ := hi
  have hexec := exec_update i (by rwa [accesses_eq, hstage]) hrun hstage
  rw [hsrc] at hexec
  exact resultInCell_of_exec (hop _) (hd _) hexec

/-- The five forms of a read-modify-write (30_encoding.md R96), whose 16-bit result has the value `n` of its operand. -/
theorem update_forms {imm : Byte} {ix iy atImm atX atY : Instr} (hx : IsUpdate op .x 1 ix) (hy : IsUpdate op .y 1 iy)
    (hatImm : IsUpdate op (.atImm imm) 2 atImm) (hatX : IsUpdate op .atX 1 atX) (hatY : IsUpdate op .atY 1 atY) :
    ResultInX ix (n s.x.toNat) 1 s ∧ ResultInY iy (n s.y.toNat) 1 s ∧
    (imm.toNat < memSize s.params → ResultInCell atImm imm (n (readCell s.mem imm.toNat).toNat) 2 s) ∧
    (s.x.toNat < memSize s.params → ResultInCell atX s.x (n (readCell s.mem s.x.toNat).toNat) 1 s) ∧
    (s.y.toNat < memSize s.params → ResultInCell atY s.y (n (readCell s.mem s.y.toNat).toNat) 1 s) := by
  refine ⟨?x, ?y, fun h => update_resultInCell hop hrun hatImm rfl (fun _ => rfl) (within_one h),
    fun h => update_resultInCell hop hrun hatX rfl (fun _ => rfl) (within_one h),
    fun h => update_resultInCell hop hrun hatY rfl (fun _ => rfl) (within_one h)⟩
  case x =>
    obtain ⟨hstage, hw⟩ := hx
    exact hw ▸ resultInX_of_exec (hop _) (exec_update ix (by rw [accesses_eq, hstage]; exact within_nil) hrun hstage)
  case y =>
    obtain ⟨hstage, hw⟩ := hy
    exact hw ▸ resultInY_of_exec (hop _) (exec_update iy (by rw [accesses_eq, hstage]; exact within_nil) hrun hstage)

end update

/-- Settles O30: INC adds one, and DEC takes one away modulo 2^16. -/
theorem incDecForms : Obligations.IncDecForms := by
  intro s imm hrun
  obtain ⟨incX, incY, incAtImm, incAtX, incAtY⟩ := update_forms (n := fun a => a + 1) incWide_toNat hrun (imm := imm)
    (ix := .incX) ⟨rfl, rfl⟩ (iy := .incY) ⟨rfl, rfl⟩ (atImm := .incAtImm imm) ⟨rfl, rfl⟩ (atX := .incAtX) ⟨rfl, rfl⟩
    (atY := .incAtY) ⟨rfl, rfl⟩
  exact ⟨incX, incY, incAtImm, incAtX, incAtY, update_forms (n := fun a => difference a 1) decWide_toNat hrun ⟨rfl, rfl⟩
    ⟨rfl, rfl⟩ ⟨rfl, rfl⟩ ⟨rfl, rfl⟩ ⟨rfl, rfl⟩⟩

/-- Settles O31: the exclusive or of a byte with itself is 0. -/
theorem clrForms : Obligations.ClrForms := fun _ _ hrun =>
  update_forms (n := fun _ => 0) clrWide_toNat hrun ⟨rfl, rfl⟩ ⟨rfl, rfl⟩ ⟨rfl, rfl⟩ ⟨rfl, rfl⟩ ⟨rfl, rfl⟩

end Sys2Proof.Proofs
end

section
/-! PROOF. Control flow, the stack, input and output, and halting (45_call_return.md to 49_io_nop_halt.md). -/

namespace Sys2Proof.Proofs

open Sys2Proof.Machine Sys2Proof.Claims

/-! ### Calls and returns -/

section calls
variable {s : State}

theorem exec_call {w : Nat} {target : Target} (i : Instr) (hsp : s.sp.toNat < memSize s.params)
    (hi : stageOf i = .call w target) :
    exec i s = .next { pushed (s.pc + BitVec.ofNat 8 w) s with pc := srcValue target.src s } := by
  have hin : Within s (accesses i s) := by
    rw [accesses_eq, hi]
    exact within_one hsp
  exact exec_assignPc i hi hin nofun rfl

theorem exec_ret (hsp : (s.sp - 1#8).toNat < memSize s.params) :
    exec .ret s = .next { s with sp := s.sp - 1#8, pc := popped s } :=
  exec_assignPc .ret rfl (within_one hsp) nofun rfl

/-- What a push stored is what the next pop takes, at the same SP. -/
theorem popped_of_pushed {v : Byte} {t : State} (hmem : t.mem = (pushed v s).mem) (hsp : t.sp = (pushed v s).sp) :
    t.sp - 1#8 = s.sp ∧ popped t = v := by
  have hback : t.sp - 1#8 = s.sp := by rw [hsp]; exact BitVec.add_sub_cancel s.sp 1#8
  exact ⟨hback, by rw [popped, hback, hmem]; exact readCell_writeCell_same s.mem s.sp.toNat v⟩

/-- A return right after a call: SP is back, and PC is the address after the call, which the call pushed. -/
theorem exec_ret_after_call {i : Instr} {target : Target} (hsp : s.sp.toNat < memSize s.params)
    (hi : stageOf i = .call (widthOf i) target) :
    ∃ t, exec i s = .next t ∧ exec .ret t = .next { s with mem := t.mem, pc := s.pc + BitVec.ofNat 8 (widthOf i) } := by
  refine ⟨_, exec_call i hsp hi, ?_⟩
  obtain ⟨hback, hpop⟩ := popped_of_pushed (s := s) (t := { pushed (s.pc + BitVec.ofNat 8 (widthOf i)) s with
    pc := srcValue target.src s }) rfl rfl
  rw [exec_ret (hback.symm ▸ hsp), hback, hpop]
  rfl

end calls

/-- Settles O32: a call stores the address after it at SP and assigns PC. -/
theorem callForms : Obligations.CallForms := fun _ imm _ hsp =>
  ⟨storesAt_of_exec (exec_call (.callImm imm) hsp (target := .imm imm) rfl),
    storesAt_of_exec (exec_call .callX hsp (target := .x) rfl),
    storesAt_of_exec (exec_call .callY hsp (target := .y) rfl)⟩

/-- Settles O33: the byte popped is assigned to PC. -/
theorem retForm : Obligations.RetForm := fun _ _ hsp => exec_ret hsp

/-- Settles O34: RET reads the cell the call wrote, at the SP the call began with. -/
theorem callThenReturn : Obligations.CallThenReturn := by
  intro s imm _ hsp
  simp only [List.forall_mem_cons, List.not_mem_nil, false_imp_iff, implies_true, and_true]
  exact ⟨exec_ret_after_call hsp (target := .imm imm) rfl, exec_ret_after_call hsp (target := .x) rfl,
    exec_ret_after_call hsp (target := .y) rfl⟩

/-! ### Jumps -/

section jumps
variable {i : Instr} {s : State} {fl : Flag} {p : Polarity} {target : Target} {k w : Nat} {b : Bool} {v : Byte}

theorem exec_jump (hi : stageOf i = .jump target) : exec i s = .next { s with pc := srcValue target.src s } :=
  exec_assignPc i hi (by rw [accesses_eq, hi]; exact within_nil) nofun rfl

theorem exec_jumpIf (hi : stageOf i = .jumpIf fl p target) (hrun : s.run = .running) :
    exec i s =
      .next (if condHolds fl p s.f then { s with pc := srcValue target.src s } else advancePc (widthOf i) s) := by
  rw [exec_of_within i hi (by rw [accesses_eq, hi]; exact within_nil) nofun, Stage.effect]
  split
  · rw [finish_assignPc]
  · rw [finish_fallThrough i hrun]

/-- The instruction is a conditional of the given shape: it tests bit `k` of F for the value `b`, its operand has the value
`v`, and it is `w` bytes wide. -/
def IsConditional (shape : Flag → Polarity → Target → Stage) (i : Instr) (k : Nat) (b : Bool) (v : Byte) (w : Nat)
    (s : State) : Prop :=
  ∃ fl p target, stageOf i = shape fl p target ∧ flagBit fl = k ∧ polarityBit p = b ∧ srcValue target.src s = v ∧
    widthOf i = w

theorem jumpsIf (hi : IsConditional .jumpIf i k b v w s) (hrun : s.run = .running) : JumpsIf i k b v w s := by
  obtain ⟨fl, p, target, hstage, rfl, rfl, rfl, rfl⟩ := hi
  rw [JumpsIf, exec_jumpIf hstage hrun]
  simp only [condHolds_iff]
  rfl

end jumps

/-- Settles O35: the operand, never in memory, is assigned to PC. -/
theorem jumpForms : Obligations.JumpForms := fun _ imm _ =>
  ⟨exec_jump (target := .imm imm) rfl, exec_jump (target := .x) rfl, exec_jump (target := .y) rfl⟩

/-- Settles O36: the model's test is the bit of F the polarity asks for, in a Flags byte other than 0. -/
theorem conditionalJumps : Obligations.ConditionalJumps := by
  intro s imm hrun
  and_intros
  all_goals exact jumpsIf ⟨_, _, _, rfl, rfl, rfl, rfl, rfl⟩ hrun

/-! ### Relative branches -/

section branches
variable {i : Instr} {s : State} {fl : Flag} {p : Polarity} {target : Target} {k w : Nat} {b : Bool} {v : Byte}

theorem branches_of_exec (h : exec i s = .next (finish i (Stage.branchEffect target s))) :
    Branches i (srcValue target.src s) s := by
  have hsum : (relAdd s.pc (srcValue target.src s)).toNat = branchSum s.pc (srcValue target.src s) := relAdd_toNat _ _
  refine ⟨_, h.trans (congrArg _ (finish_assignPc i _ _)), ?_, hsum ▸ flagsFrom_applyFlags _ s.f⟩
  rw [← hsum, ← lowByte_eq_ofNat]

theorem branches (i : Instr) (hi : stageOf i = .branch target) : Branches i (srcValue target.src s) s :=
  branches_of_exec (exec_of_within i hi (by rw [accesses_eq, hi]; exact within_nil) nofun)

theorem branchesIf (hi : IsConditional .branchIf i k b v w s) (hrun : s.run = .running) : BranchesIf i k b v w s := by
  obtain ⟨fl, p, target, hstage, rfl, rfl, rfl, rfl⟩ := hi
  have hexec := exec_of_within i hstage (s := s) (by rw [accesses_eq, hstage]; exact within_nil) nofun
  rw [Stage.effect] at hexec
  rw [BranchesIf]
  split
  next h =>
    rw [if_pos ((condHolds_iff fl p s.f).2 h)] at hexec
    exact branches_of_exec hexec
  next h =>
    rw [if_neg (mt (condHolds_iff fl p s.f).1 h), finish_fallThrough i hrun] at hexec
    exact hexec

/-- The sum of a branch is its target where that is not negative, and 2^16 above it otherwise. -/
theorem branchSum_cases (pc v : Byte) :
    ((pc.toNat : Int) + v.toInt < 0 ∧ (branchSum pc v : Int) = pc.toNat + v.toInt + 65536) ∨
    (0 ≤ (pc.toNat : Int) + v.toInt ∧ (branchSum pc v : Int) = pc.toNat + v.toInt) := by
  have hpc := pc.isLt
  have hlo := BitVec.le_toInt v
  have hhi := BitVec.toInt_lt (x := v)
  rw [branchSum]
  omega

/-- The flags and the PC of a branch, read off the exact target: the offset is between -128 and 127, so the high byte of the
sum is 0, 1 or 0xff. -/
theorem branchesByTarget_of_branches (h : Branches i v s) : BranchesByTarget i v s := by
  obtain ⟨t, hexec, hpc, hoverflow, hzero, hcarry, -⟩ := h
  have hsum := branchSum_cases s.pc v
  have hlo := BitVec.le_toInt v
  have hhi := BitVec.toInt_lt (x := v)
  have hlt := s.pc.isLt
  rw [Nat.testBit_eq_decide_div_mod_eq] at hcarry
  refine ⟨t, hexec, ?pc, ?flags⟩
  case pc =>
    rw [hpc, BitVec.toNat_ofNat]
    omega
  case flags =>
    rw [hoverflow, hzero, hcarry]
    simp only [decide_eq_true_eq, decide_eq_false_iff_not]
    omega

theorem branchesByTarget_of_branchesIf (h : BranchesIf i k b v w s) (hf : s.f ≠ 0#8) (hk : s.f.getLsbD k = b) :
    BranchesByTarget i v s := by
  rw [BranchesIf, if_pos ⟨hf, hk⟩] at h
  exact branchesByTarget_of_branches h

end branches

/-- Settles O37: the three operands of BR are never in memory. -/
theorem branchForms : Obligations.BranchForms := fun _ imm _ =>
  ⟨branches (.brImm imm) (target := .imm imm) rfl, branches .brX (target := .x) rfl, branches .brY (target := .y) rfl⟩

/-- Settles O38: the test is that of the conditional jumps. -/
theorem conditionalBranches : Obligations.ConditionalBranches := by
  intro s imm hrun
  and_intros
  all_goals exact branchesIf ⟨_, _, _, rfl, rfl, rfl, rfl, rfl⟩ hrun

/-- Settles O39: a taken branch of any form is one sum, whose flags the exact target decides. -/
theorem branchFlagsByTarget : Obligations.BranchFlagsByTarget := by
  intro s imm hrun
  refine ⟨branchesByTarget_of_branches (branches (.brImm imm) (target := .imm imm) rfl),
    branchesByTarget_of_branches (branches .brX (target := .x) rfl),
    branchesByTarget_of_branches (branches .brY (target := .y) rfl), fun hf => ?taken⟩
  case taken =>
    and_intros
    all_goals
      intro hk
      and_intros
      all_goals exact branchesByTarget_of_branchesIf (branchesIf ⟨_, _, _, rfl, rfl, rfl, rfl, rfl⟩ hrun) hf hk

/-! ### The stack -/

theorem within_push {s : State} {src : Src} {i : Instr} (hsp : s.sp.toNat < memSize s.params)
    (hsrc : Within s (srcAddrs src s)) (hi : stageOf i = .push src) : Within s (accesses i s) := by
  rw [accesses_eq, hi]
  exact List.forall_mem_append.2 ⟨hsrc, within_one hsp⟩

/-- PUSH stores its operand at SP. -/
theorem push_storesAt {s : State} {src : Src} (i : Instr) (hi : stageOf i = .push src) (hrun : s.run = .running)
    (hsp : s.sp.toNat < memSize s.params) (hsrc : Within s (srcAddrs src s)) :
    StoresAt i s.sp (srcValue src s) { s with sp := s.sp + 1#8, pc := s.pc + BitVec.ofNat 8 (widthOf i) } s :=
  storesAt_of_exec (exec_push i (within_push hsp hsrc hi) hrun hi)

/-- Settles O40: the operand is read before the byte at SP is written. -/
theorem pushForms : Obligations.PushForms := fun _ imm hrun hsp =>
  ⟨push_storesAt (.pushImm imm) rfl hrun hsp within_nil, push_storesAt .pushX rfl hrun hsp within_nil,
    push_storesAt .pushY rfl hrun hsp within_nil,
    fun himm => push_storesAt (.pushAtImm imm) rfl hrun hsp (within_one himm),
    fun hx => push_storesAt .pushAtX rfl hrun hsp (within_one hx),
    fun hy => push_storesAt .pushAtY rfl hrun hsp (within_one hy)⟩

/-- Settles O41: the byte at the decremented SP goes to the destination. -/
theorem popForms : Obligations.PopForms := fun _ imm hrun hsp =>
  ⟨exec_pop .popX (within_one hsp) hrun rfl, exec_pop .popY (within_one hsp) hrun rfl,
    fun himm => storesAt_of_exec (exec_pop (.popAtImm imm) (within_two hsp himm) hrun rfl),
    fun hx => storesAt_of_exec (exec_pop .popAtX (within_two hsp hx) hrun rfl)⟩

/-- Push, clear and pop of one register: the pop reads the cell the push wrote, at the SP the push began with. -/
theorem push_clr_pop {s : State} (hrun : s.run = .running) (hsp : s.sp.toNat < memSize s.params) {d : Dst}
    (hd : d = .x ∨ d = .y) {iPush iClr iPop : Instr} (hpush : stageOf iPush = .push (sourceOf d) ∧ widthOf iPush = 1)
    (hclr : stageOf iClr = .update clrWide d ∧ widthOf iClr = 1) (hpop : stageOf iPop = .pop d ∧ widthOf iPop = 1) :
    ∃ a b c, exec iPush s = .next a ∧ exec iClr a = .next b ∧ srcValue (sourceOf d) b = 0#8 ∧ exec iPop b = .next c ∧
      c = { s with mem := c.mem, f := c.f, pc := s.pc + 3#8 } := by
  obtain ⟨hpush, hwPush⟩ := hpush
  obtain ⟨hclr, hwClr⟩ := hclr
  obtain ⟨hpop, hwPop⟩ := hpop
  have hreg : ∀ t, Within t (dstAddrs d t) := by rcases hd with rfl | rfl <;> exact fun _ => within_nil
  let a := advancePc 1 (pushed (srcValue (sourceOf d) s) s)
  let b := advancePc 1 (resultIn d (clrWide (srcValue (sourceOf d) a)) a)
  have ha : exec iPush s = .next a := by
    rw [exec_push iPush (within_push hsp (hreg s) hpush) hrun hpush, hwPush]
  have hb : exec iClr a = .next b := by
    rw [exec_update iClr (s := a) (by rw [accesses_eq, hclr]; exact hreg a) hrun hclr, hwClr]
  have hmem : b.mem = a.mem := by rcases hd with rfl | rfl <;> rfl
  have hsame : b.sp = a.sp := by rcases hd with rfl | rfl <;> rfl
  obtain ⟨hback, hval⟩ := popped_of_pushed (s := s) hmem hsame
  have hin : Within b (accesses iPop b) := by
    rw [accesses_eq, hpop, Stage.addrs, hback]
    exact List.forall_mem_append.2 ⟨within_one (by rcases hd with rfl | rfl <;> exact hsp), hreg b⟩
  have hc := exec_pop iPop hin (by rcases hd with rfl | rfl <;> exact hrun) hpop
  rw [hwPop, hback, hval] at hc
  refine ⟨a, b, _, ha, hb, ?zero, hc, ?frame⟩
  case zero =>
    have hzero : lowByte (clrWide (srcValue (sourceOf d) a)) = 0#8 := by rw [lowByte_eq_ofNat, clrWide_toNat]
    rcases hd with rfl | rfl <;> exact hzero
  case frame =>
    rcases hd with rfl | rfl <;>
      simp [a, b, advancePc, resultIn, dstWrite, pushed, sourceOf, srcValue, BitVec.add_assoc]

/-- Settles O42: both registers by the one round trip. -/
theorem stackRoundTrip : Obligations.StackRoundTrip := fun _ hrun hsp =>
  ⟨push_clr_pop hrun hsp (.inl rfl) ⟨rfl, rfl⟩ ⟨rfl, rfl⟩ ⟨rfl, rfl⟩,
    push_clr_pop hrun hsp (.inr rfl) ⟨rfl, rfl⟩ ⟨rfl, rfl⟩ ⟨rfl, rfl⟩⟩

/-! ### Input and output -/

/-- Settles O43: OUT copies its operand to the latch. -/
theorem outForms : Obligations.OutForms := fun _ imm hrun =>
  ⟨exec_output .outX within_nil hrun rfl, exec_output .outY within_nil hrun rfl,
    fun himm => exec_output (.outAtImm imm) (within_one himm) hrun rfl,
    fun hx => exec_output .outAtX (within_one hx) hrun rfl, fun hy => exec_output .outAtY (within_one hy) hrun rfl⟩

/-- Settles O44: IN copies the latch to its destination. -/
theorem inForms : Obligations.InForms := fun _ imm hrun =>
  ⟨exec_input .inX within_nil hrun rfl, exec_input .inY within_nil hrun rfl,
    fun himm => storesAt_of_exec (exec_input (.inAtImm imm) (within_one himm) hrun rfl),
    fun hx => storesAt_of_exec (exec_input .inAtX (within_one hx) hrun rfl),
    fun hy => storesAt_of_exec (exec_input .inAtY (within_one hy) hrun rfl)⟩

/-! ### No-op and halt -/

section misc
variable {s : State}

theorem exec_noop (i : Instr) (hi : stageOf i = .noop) (hrun : s.run = .running) :
    exec i s = .next (advancePc (widthOf i) s) :=
  exec_fallThrough i hi (by rw [accesses_eq, hi]; exact within_nil) nofun rfl hrun

theorem exec_hlt (s : State) : exec .hlt s = .next (finish .hlt (fallThrough (Stage.haltState s))) :=
  exec_of_within .hlt rfl within_nil nofun

/-- HLT under terminate ends the run. -/
theorem exec_hlt_terminate (hb : s.params.haltBehavior = .terminate) :
    exec .hlt s = .next { s with run := .stopped } := by
  rw [exec_hlt, Stage.haltState, hb, finish_notRunning _ (by simp)]

/-- HLT under spin completes where the Trap flag is set. -/
theorem exec_hlt_trap (hrun : s.run = .running) (hb : s.params.haltBehavior = .spin) (ht : s.f.getLsbD 7 = true) :
    exec .hlt s = .next { s with pc := s.pc + 1#8 } := by
  rw [exec_hlt, Stage.haltState, hb, flagSet, flagBit, ht, if_pos rfl, finish_fallThrough _ hrun]
  rfl

/-- HLT under spin waits where it is clear. -/
theorem exec_hlt_wait (hb : s.params.haltBehavior = .spin) (ht : s.f.getLsbD 7 = false) :
    exec .hlt s = .next { s with run := .halted } := by
  rw [exec_hlt, Stage.haltState, hb, flagSet, flagBit, ht, if_neg (by simp), finish_notRunning _ (by simp)]

end misc

/-- Settles O45: HLT by HALT_BEHAVIOR and, under spin, by T. -/
theorem nopAndHlt : Obligations.NopAndHlt := fun _ hrun =>
  ⟨exec_noop .nop rfl hrun, exec_hlt_terminate, exec_hlt_trap hrun, exec_hlt_wait⟩

end Sys2Proof.Proofs
end

section
/-! PROOF. The classes of instructions the whole-machine rules speak of (10_state.md section 3, 40_engine_cycle.md sections
4 and 8) are classes of shapes, and what a shape leaves unchanged is read off its effect: the frames of the registers, the
flags, memory and PC. -/

namespace Sys2Proof.Proofs

open Sys2Proof.Machine Sys2Proof.Claims

/-! ### Classes of shapes -/

namespace Stage

/-- The destination a shape writes, if it names one. -/
def dst : Stage → Option Dst
  | .move d _ | .binary _ d _ | .divide d _ | .update _ d | .pop d | .input d => some d
  | .call _ _ | .ret | .jump _ | .jumpIf _ _ _ | .branch _ | .branchIf _ _ _ | .push _ | .output _ | .noop | .halt => none

def usesStack : Stage → Bool
  | .call _ _ | .ret | .push _ | .pop _ => true
  | _ => false

/-- The shape stores at SP. -/
def pushes : Stage → Bool
  | .call _ _ | .push _ => true
  | _ => false

def outputs : Stage → Bool
  | .output _ => true
  | _ => false

def setsFlags : Stage → Bool
  | .binary _ _ _ | .divide _ _ | .update _ _ | .branch _ | .branchIf _ _ _ => true
  | _ => false

def assignsPc : Stage → Bool
  | .call _ _ | .ret | .jump _ | .jumpIf _ _ _ | .branch _ | .branchIf _ _ _ => true
  | _ => false

def isConditional : Stage → Bool
  | .jumpIf _ _ _ | .branchIf _ _ _ => true
  | _ => false

/-- The address a shape stores to. -/
def storeAddr (st : Stage) (s : State) : Option Byte :=
  if st.pushes then some s.sp else st.dst.bind fun d => (dstAddrs d s).head?

end Stage

section classes
variable (i : Instr)

theorem writesX_eq : writesX i = decide ((stageOf i).dst = some .x) := by cases i <;> rfl

theorem writesY_eq : writesY i = decide ((stageOf i).dst = some .y) := by cases i <;> rfl

theorem writesSp_eq : writesSp i = (decide ((stageOf i).dst = some .sp) || (stageOf i).usesStack) := by cases i <;> rfl

theorem writesIo_eq : writesIo i = (stageOf i).outputs := by cases i <;> rfl

theorem flagProducing_eq : flagProducing i = (stageOf i).setsFlags := by cases i <;> rfl

theorem canAssignPc_eq : canAssignPc i = (stageOf i).assignsPc := by cases i <;> rfl

theorem storeAddress_eq (s : State) : storeAddress i s = (stageOf i).storeAddr s := by cases i <;> rfl

theorem conditional_eq : (opcodeIn 0xa3 0xba i || opcodeIn 0xbe 0xd5 i) = (stageOf i).isConditional := by
  cases i <;> rfl

theorem divisor_isSome (s : State) : (divisor i s).isSome = opcodeIn 0x40 0x47 i := by cases i <;> rfl

theorem stageOf_eq_halt (h : stageOf i = .halt) : i = .hlt := by cases i <;> first | rfl | cases h

end classes

/-! ### What an effect leaves unchanged -/

section frames
variable {d : Dst} (v : Byte) (s : State)

theorem dstWrite_x (h : d ≠ .x) : (dstWrite d v s).x = s.x := by cases d <;> first | rfl | exact absurd rfl h
theorem dstWrite_y (h : d ≠ .y) : (dstWrite d v s).y = s.y := by cases d <;> first | rfl | exact absurd rfl h
theorem dstWrite_sp (h : d ≠ .sp) : (dstWrite d v s).sp = s.sp := by cases d <;> first | rfl | exact absurd rfl h

/-- A write to a destination changes the cell at its address, or none. -/
theorem dstWrite_mem (d : Dst) : (dstWrite d v s).mem = s.mem ∧ dstAddrs d s = [] ∨
    ∃ a, dstAddrs d s = [a] ∧ (dstWrite d v s).mem = writeCell s.mem a.toNat v := by
  cases d with
  | x => exact .inl ⟨rfl, rfl⟩
  | y => exact .inl ⟨rfl, rfl⟩
  | sp => exact .inl ⟨rfl, rfl⟩
  | atImm a => exact .inr ⟨a, rfl, rfl⟩
  | atX => exact .inr ⟨s.x, rfl, rfl⟩
  | atY => exact .inr ⟨s.y, rfl, rfl⟩

end frames

namespace Stage

/-- What a shape leaves of the registers and the parameters, from `s` to `t` (10_state.md R42). -/
structure RegisterFrame (st : Stage) (s t : State) : Prop where
  x : st.dst ≠ some .x → t.x = s.x
  y : st.dst ≠ some .y → t.y = s.y
  io : st.outputs = false → t.io = s.io
  sp : st.dst ≠ some .sp → st.usesStack = false → t.sp = s.sp
  params : t.params = s.params

variable (st : Stage) (s : State)

theorem haltState_frame : haltState s = { s with run := (haltState s).run } := by
  unfold haltState
  repeat' split
  all_goals rfl

theorem effect_registers : RegisterFrame st s (st.effect s).state := by
  cases st with
  | move | binary | divide | update | input =>
    exact ⟨fun h => dstWrite_x _ _ (h ∘ congrArg some), fun h => dstWrite_y _ _ (h ∘ congrArg some),
      fun _ => dstWrite_io _ _ _, fun h _ => dstWrite_sp _ _ (h ∘ congrArg some), dstWrite_params _ _ _⟩
  | pop =>
    exact ⟨fun h => dstWrite_x _ _ (h ∘ congrArg some), fun h => dstWrite_y _ _ (h ∘ congrArg some),
      fun _ => dstWrite_io _ _ _, fun _ => nofun, dstWrite_params _ _ _⟩
  | call | ret | push => exact ⟨fun _ => rfl, fun _ => rfl, fun _ => rfl, fun _ => nofun, rfl⟩
  | output => exact ⟨fun _ => rfl, fun _ => rfl, nofun, fun _ _ => rfl, rfl⟩
  | jump | branch | noop => exact ⟨fun _ => rfl, fun _ => rfl, fun _ => rfl, fun _ _ => rfl, rfl⟩
  | jumpIf | branchIf =>
    rw [effect]
    split <;> exact ⟨fun _ => rfl, fun _ => rfl, fun _ => rfl, fun _ _ => rfl, rfl⟩
  | halt =>
    rw [effect, fallThrough_state, haltState_frame]
    exact ⟨fun _ => rfl, fun _ => rfl, fun _ => rfl, fun _ _ => rfl, rfl⟩

/-- A shape keeps F, or is one that sets flags and applies the policy to one result. -/
theorem effect_flags :
    (st.effect s).state.f = s.f ∨ st.setsFlags = true ∧ ∃ w, (st.effect s).state.f = applyFlags w s.f := by
  cases st with
  | move | input => exact .inl (dstWrite_f _ _ _)
  | pop => exact .inl (dstWrite_f _ _ _)
  | binary | divide | update | branch => exact .inr ⟨rfl, _, rfl⟩
  | branchIf =>
    rw [effect]
    split
    · exact .inr ⟨rfl, _, rfl⟩
    · exact .inl rfl
  | jumpIf =>
    rw [effect]
    split <;> exact .inl rfl
  | halt =>
    rw [effect, fallThrough_state, haltState_frame]
    exact .inl rfl
  | call | ret | jump | push | output | noop => exact .inl rfl

/-- A shape keeps memory, or writes the one cell it stores to. -/
theorem effect_mem : (st.effect s).state.mem = s.mem ∨
    ∃ a v, st.storeAddr s = some a ∧ (st.effect s).state.mem = writeCell s.mem a.toNat v := by
  have written : ∀ {d : Dst} {v : Byte} {t : State}, t.mem = s.mem → dstAddrs d t = dstAddrs d s →
      (dstWrite d v t).mem = s.mem ∨
        ∃ a v', (dstAddrs d s).head? = some a ∧ (dstWrite d v t).mem = writeCell s.mem a.toNat v' := by
    intro d v t hmem haddrs
    rcases dstWrite_mem v t d with ⟨h, -⟩ | ⟨a, ha, h⟩
    · exact .inl (h.trans hmem)
    · exact .inr ⟨a, v, by rw [← haddrs, ha]; rfl, by rw [h, hmem]⟩
  cases st with
  | move | binary | divide | update | input => exact written rfl rfl
  | pop => exact written rfl (dstAddrs_withSp _ _ _)
  | call | push => exact .inr ⟨_, _, rfl, rfl⟩
  | jumpIf | branchIf =>
    rw [effect]
    split <;> exact .inl rfl
  | halt =>
    rw [effect, fallThrough_state, haltState_frame]
    exact .inl rfl
  | ret | jump | branch | output | noop => exact .inl rfl

/-- A shape that cannot assign PC leaves it to the program-counter policy. -/
theorem effect_pc (h : st.assignsPc = false) :
    st.effect s = fallThrough (st.effect s).state ∧ (st.effect s).state.pc = s.pc := by
  cases st with
  | move | binary | divide | update | input => exact ⟨rfl, dstWrite_pc _ _ _⟩
  | pop => exact ⟨rfl, dstWrite_pc _ _ _⟩
  | push | output | noop => exact ⟨rfl, rfl⟩
  | halt =>
    refine ⟨rfl, ?_⟩
    rw [effect, fallThrough_state, haltState_frame]
  | call | ret | jump | jumpIf | branch | branchIf => cases h

/-- Only HLT changes the run state. -/
theorem effect_run (h : st ≠ .halt) : (st.effect s).state.run = s.run := by
  cases st with
  | move | binary | divide | update | input => exact dstWrite_run _ _ _
  | pop => exact dstWrite_run _ _ _
  | jumpIf | branchIf =>
    rw [effect]
    split <;> rfl
  | halt => exact absurd rfl h
  | call | ret | jump | branch | push | output | noop => rfl

/-- With F zero no conditional is taken (40_engine_cycle.md R130). -/
theorem effect_conditional (h : st.isConditional = true) (hf : s.f = 0#8) : st.effect s = fallThrough s := by
  cases st with
  | jumpIf fl p | branchIf fl p => rw [effect, hf, condHolds_zero, if_neg (by decide)]
  | _ => cases h

end Stage

/-! ### The frames of an instruction -/

section exec
variable {i : Instr} {s t : State} (h : exec i s = .next t)
include h

theorem exec_registers : (stageOf i).RegisterFrame s t := by
  rcases exec_eq_next h with ⟨r, rfl⟩ | rfl
  · exact ⟨fun _ => rfl, fun _ => rfl, fun _ => rfl, fun _ _ => rfl, rfl⟩
  · obtain ⟨hx, hy, hio, hsp, hp⟩ := (stageOf i).effect_registers s
    exact ⟨fun h => (finish_x _ _).trans (hx h), fun h => (finish_y _ _).trans (hy h),
      fun h => (finish_io _ _).trans (hio h), fun h h' => (finish_sp _ _).trans (hsp h h'), (finish_params _ _).trans hp⟩

theorem exec_flags : t.f = s.f ∨ (stageOf i).setsFlags = true ∧ ∃ w, t.f = applyFlags w s.f := by
  rcases exec_eq_next h with ⟨r, rfl⟩ | rfl
  · exact .inl rfl
  · simpa only [finish_f] using (stageOf i).effect_flags s

theorem exec_mem : t.mem = s.mem ∨ ∃ a v, storeAddress i s = some a ∧ t.mem = writeCell s.mem a.toNat v := by
  rcases exec_eq_next h with ⟨r, rfl⟩ | rfl
  · exact .inl rfl
  · simpa only [finish_mem, storeAddress_eq] using (stageOf i).effect_mem s

/-- No instruction writes T or bits 3 to 6 (40_engine_cycle.md R128). -/
theorem exec_flags_ge {k : Nat} (hk : 3 ≤ k) : t.f.getLsbD k = s.f.getLsbD k := by
  rcases exec_flags h with hf | ⟨-, w, hf⟩ <;> rw [hf]
  exact applyFlags_bit_ge hk w s.f

end exec

/-- Settles O50: what is no flag-producing instruction has a shape that sets no flags. -/
theorem flagFrame : Obligations.FlagFrame := by
  intro i s t h
  rw [flagProducing_eq]
  refine ⟨fun hno => (exec_flags h).resolve_right fun hset => ?_, (exec_flags h).imp_right fun hset => hset.2,
    fun k hk => exec_flags_ge h hk⟩
  rw [hno] at hset
  exact absurd hset.1 (by decide)

/-- Settles O51: the classes of the register table are the shapes' destinations, stack uses and outputs. -/
theorem registerFrame : Obligations.RegisterFrame := by
  intro i s t h
  obtain ⟨hx, hy, hio, hsp, hp⟩ := exec_registers h
  rw [writesX_eq, writesY_eq, writesIo_eq, writesSp_eq]
  refine ⟨fun h => hx (of_decide_eq_false h), fun h => hy (of_decide_eq_false h), hio, fun h => ?_, hp⟩
  obtain ⟨hdst, hstack⟩ := Bool.or_eq_false_iff.1 h
  exact hsp (of_decide_eq_false hdst) hstack

/-- Settles O52: the one cell an instruction writes is the one it stores to. -/
theorem memoryFrame : Obligations.MemoryFrame := by
  intro i s t h
  rcases exec_mem h with hm | ⟨a, v, ha, hm⟩ <;> rw [hm]
  · exact ⟨fun _ _ _ _ => rfl, fun _ _ => rfl⟩
  · rw [ha]
    refine ⟨fun a' ha' b hb => ?_, nofun⟩
    cases ha'
    exact readCell_writeCell_other s.mem v hb

/-- JMP #imm assigns PC even where its operand is its own address. -/
theorem exec_jmpImm (imm : Byte) (s : State) : exec (.jmpImm imm) s = .next { s with pc := imm } :=
  exec_jump (target := .imm imm) rfl

/-- Settles O12: outside the families that can assign PC, an instruction advances PC unless the run state left Running. -/
theorem pcPolicy : Obligations.PcPolicy := by
  refine ⟨fun i s t hno hrun h => ?advance, fun s _ => exec_jmpImm s.pc s⟩
  rw [canAssignPc_eq] at hno
  rcases exec_eq_next h with ⟨r, rfl⟩ | rfl
  · exact .inr ⟨nofun, rfl⟩
  · obtain ⟨hfall, hpc⟩ := (stageOf i).effect_pc s hno
    rw [hfall]
    by_cases hr : ((stageOf i).effect s).state.run = .running
    · rw [finish_fallThrough i hr]
      exact .inl ⟨hr, congrArg (· + BitVec.ofNat 8 (widthOf i)) hpc⟩
    · rw [finish_notRunning i hr]
      exact .inr ⟨hr, hpc⟩

end Sys2Proof.Proofs
end

section
/-! PROOF. The cycle as a whole (40_engine_cycle.md, 60_exceptions.md): what a step runs, the conditional opcodes and HLT
under every legal map, the run states, and the fatal faults. -/

namespace Sys2Proof.Proofs

open Sys2Proof.Machine Sys2Proof.Claims

/-! ### What a step runs -/

/-- Decoding both fetched bytes gives the instruction of the fetch decoder. -/
theorem decode_pair {m : OpcodeMap} {op imm : Byte} {i : Instr} {rest : List Byte}
    (h : decode m [op, imm] = .ok (i, rest)) : i = decodeWord m op imm := by
  rcases decode_cases h with ⟨op', hw, hbytes, rfl⟩ | ⟨op', imm', -, hbytes, rfl⟩ <;> cases hbytes
  · exact decodeWord_const hw 0#8 imm
  · rfl

/-- Settles O7: both bytes are fetched, and decoding the pair is the decoding of the fetch. -/
theorem stepRunsDecodedInstruction : Obligations.StepRunsDecodedInstruction := by
  intro s i rest hrun hpc hdecode
  rw [step_of_fetch hrun (fetch_of_lt hpc), decode_pair hdecode]

/-- A step of a running machine whose two bytes are within memory. -/
theorem step_of_lt {s : State} (hrun : s.run = .running) (hpc : s.pc.toNat + 1 < memSize s.params) : step s =
    exec (decodeWord s.params.opcodeMap (readCell s.mem s.pc.toNat) (readCell s.mem (s.pc.toNat + 1))) s :=
  step_of_fetch hrun (fetch_of_lt hpc)

theorem fetch_of_ge {s : State} (h : memSize s.params ≤ s.pc.toNat) : fetch s = .error (none, .memory s.pc.toNat) := by
  rcases fetch_cases s with ⟨-, hf⟩ | ⟨hlt, -⟩ | ⟨hlt, -⟩
  · exact hf
  · omega
  · omega

theorem fetch_of_last {s : State} (hlt : s.pc.toNat < memSize s.params) (hge : memSize s.params ≤ s.pc.toNat + 1) :
    fetch s = .error (some (readCell s.mem s.pc.toNat), .memory (s.pc.toNat + 1)) := by
  rcases fetch_cases s with ⟨hge', -⟩ | ⟨-, -, hf⟩ | ⟨hlt', -⟩
  · omega
  · exact hf
  · omega

/-- Settles O8: the fetch reads PC, then PC + 1, and the first address outside memory faults. -/
theorem fetchFaults : Obligations.FetchFaults := by
  refine fun s hrun => ⟨fun hge => step_of_fetch_error hrun (fetch_of_ge hge),
    fun hlt hge => step_of_fetch_error hrun (fetch_of_last hlt hge), fun htop hpc => ?_⟩
  rw [step_of_pc_last hrun htop hpc, hpc]
  rfl

theorem step_halted {s : State} (hrun : s.run = .halted) : step s = .next (pollTrap s) := by simp only [step, hrun]

theorem pollTrap_set {s : State} (ht : s.f.getLsbD 7 = true) :
    pollTrap s = { s with pc := s.pc + 1#8, run := .running } := if_pos ht

theorem pollTrap_clear {s : State} (ht : s.f.getLsbD 7 = false) : pollTrap s = s :=
  if_neg (by rw [flagSet, flagBit, ht]; decide)

/-- Settles O9: the poll reads T and fetches nothing. -/
theorem haltedPolls : Obligations.HaltedPolls := fun _ hrun =>
  ⟨fun ht => (step_halted hrun).trans (congrArg _ (pollTrap_set ht)),
    fun ht => (step_halted hrun).trans (congrArg _ (pollTrap_clear ht))⟩

/-- Every instruction answers a next state. -/
theorem exec_answers (i : Instr) (s : State) : ∃ t, exec i s = .next t := by
  rcases exec_outcomes i s with ⟨a, -, -, h⟩ | ⟨-, h⟩ | h <;> exact ⟨_, h⟩

theorem step_answers {s : State} (h : s.run = .running ∨ s.run = .halted) : ∃ t, step s = .next t := by
  rcases h with hrun | hrun
  · cases hf : fetch s with
    | error e => exact ⟨_, step_of_fetch_error hrun hf⟩
    | ok w => exact step_of_fetch hrun hf ▸ exec_answers _ s
  · exact ⟨_, step_halted hrun⟩

theorem step_stopped {s : State} (hrun : s.run = .stopped) : step s = .fault .runStopped := by simp only [step, hrun]

theorem step_faulted {s : State} {r : FaultRecord} (hrun : s.run = .faulted r) : step s = .fault (.runFaulted r) := by
  simp only [step, hrun]

/-- Settles O10: an instruction, a fetch fault and a poll each answer a next state. -/
theorem noStepAfterTheRun : Obligations.NoStepAfterTheRun := fun _ =>
  ⟨step_stopped, fun _ => step_faulted, step_answers⟩

/-! ### Legal maps and families -/

/-- What a legal map has at an opcode is nothing, or what R104 has at an opcode of the same family. -/
theorem decodeWord_legal {m : OpcodeMap} (hm : legalMap m = true) (op imm : Byte) :
    decodeWord m op imm = .unimplemented op ∨
    ∃ k r, (k = op ∨ sameFamily op k = true) ∧ tableRow k = some r ∧ decodeWord m op imm = r.build imm := by
  cases h : rowOf m op with
  | none => exact .inl (decodeWord_none h imm)
  | some r =>
    refine .inr ?_
    rcases rowOf_family hm op with h' | h' | ⟨k, r', hk, hr', h'⟩
    · exact ⟨op, r, .inl rfl, h' ▸ h, decodeWord_some h imm⟩
    · cases h'.symm.trans h
    · exact ⟨k, r', .inr hk, hr', decodeWord_some h' imm⟩

/-- The opcode in R104 of what a row of R104 builds. -/
theorem opcodeOf_build {k : Byte} {r : OpcodeRow} (h : tableRow k = some r) (imm : Byte) :
    opcodeOf (r.build imm) = k := by
  rw [← opcodeOf_decodeWord k imm, decodeWord_some (m := defaultOpcodeMap) h]

theorem opcodeIn_build {k : Byte} {r : OpcodeRow} (h : tableRow k = some r) (imm : Byte) (lo hi : Nat) :
    opcodeIn lo hi (r.build imm) = (decide (lo ≤ k.toNat) && decide (k.toNat ≤ hi)) := by
  have hne := build_ne_unimplemented h imm
  have hop := opcodeOf_build h imm
  unfold opcodeIn
  split
  next op' he => exact absurd he (hne op')
  next => rw [hop]

/-- A family that has a conditional opcode is that of the conditional jumps or that of the conditional branches. -/
theorem conditional_of_sameFamily {a b : Byte} (h : sameFamily a b = true)
    (ha : 0xa3 ≤ a.toNat ∧ a.toNat ≤ 0xba ∨ 0xbe ≤ a.toNat ∧ a.toNat ≤ 0xd5) :
    0xa3 ≤ b.toNat ∧ b.toNat ≤ 0xba ∨ 0xbe ≤ b.toNat ∧ b.toNat ≤ 0xd5 := by
  simp only [sameFamily, familyRanges, List.any_cons, List.any_nil, Bool.or_false, Bool.or_eq_true, Bool.and_eq_true,
    decide_eq_true_eq] at h
  omega

theorem eq_of_sameFamily_hlt {a : Byte} (h : sameFamily a 0xff#8 = true) : a = 0xff#8 := by
  refine BitVec.eq_of_toNat_eq ?_
  simp only [sameFamily, familyRanges, List.any_cons, List.any_nil, Bool.or_false, Bool.or_eq_true, Bool.and_eq_true,
    decide_eq_true_eq, BitVec.toNat_ofNat] at h
  have := a.isLt
  rw [BitVec.toNat_ofNat]
  omega

/-- Under every legal map HLT is at 0xff alone. -/
theorem eq_of_decodeWord_hlt {m : OpcodeMap} (hm : legalMap m = true) {op imm : Byte} (h : decodeWord m op imm = .hlt) :
    op = 0xff#8 := by
  rcases decodeWord_legal hm op imm with he | ⟨k, r, hk, hr, he⟩ <;> rw [h] at he
  · cases he
  · have hop : k = 0xff#8 := by rw [← opcodeOf_build hr imm, ← he]; rfl
    subst hop
    rcases hk with rfl | hk
    · rfl
    · exact eq_of_sameFamily_hlt hk

/-- What a legal map has at a conditional opcode is a conditional, or nothing. -/
theorem stageOf_conditional {m : OpcodeMap} (hm : legalMap m = true) {op : Byte} (imm : Byte)
    (hop : 0xa3 ≤ op.toNat ∧ op.toNat ≤ 0xba ∨ 0xbe ≤ op.toNat ∧ op.toNat ≤ 0xd5) :
    stageOf (decodeWord m op imm) = .noop ∨ (stageOf (decodeWord m op imm)).isConditional = true := by
  rcases decodeWord_legal hm op imm with he | ⟨k, r, hk, hr, he⟩ <;> rw [he]
  · exact .inl rfl
  · have hrange : 0xa3 ≤ k.toNat ∧ k.toNat ≤ 0xba ∨ 0xbe ≤ k.toNat ∧ k.toNat ≤ 0xd5 := by
      rcases hk with rfl | hk
      · exact hop
      · exact conditional_of_sameFamily hk hop
    refine .inr ?_
    rw [← conditional_eq, opcodeIn_build hr, opcodeIn_build hr]
    simpa using hrange

theorem addrs_of_conditional {st : Stage} (h : st.isConditional = true) (s : State) :
    st.addrs s = [] ∧ st.divisor s = none := by
  cases st with
  | jumpIf | branchIf => exact ⟨rfl, rfl⟩
  | _ => cases h

/-- A conditional with F zero only advances PC. -/
theorem exec_conditional_zero {i : Instr} {s : State} (hi : (stageOf i).isConditional = true) (hrun : s.run = .running)
    (hf : s.f = 0#8) : exec i s = .next (advancePc (widthOf i) s) := by
  obtain ⟨haddrs, hdiv⟩ := addrs_of_conditional hi s
  exact exec_fallThrough i rfl (by rw [accesses_eq, haddrs]; exact within_nil) (by rw [hdiv]; nofun)
    ((stageOf i).effect_conditional s hi hf) hrun

/-- Settles O17: with F zero every conditional falls through, and a legal map has nothing else at a conditional opcode. -/
theorem conditionalTest : Obligations.ConditionalTest := by
  refine ⟨fun f => ⟨condHolds_iff .o .ifSet f, condHolds_iff .o .ifClear f, condHolds_iff .z .ifSet f,
    condHolds_iff .z .ifClear f, condHolds_iff .t .ifSet f, condHolds_iff .t .ifClear f, condHolds_iff .c .ifSet f,
    condHolds_iff .c .ifClear f⟩, fun m op imm s hm hop hrun hf => ?_⟩
  rw [← widthOf_decodeWord m op imm]
  rcases stageOf_conditional hm imm hop with hi | hi
  · exact exec_noop _ hi hrun
  · exact exec_conditional_zero hi hrun hf

/-! ### Run states and faults -/

/-- An instruction other than HLT leaves the run state, or faults. -/
theorem exec_run {i : Instr} {s t : State} (hi : i ≠ .hlt) (h : exec i s = .next t) :
    t.run = s.run ∨ ∃ r, t = raiseFault (some (opcodeAtPc s)) r s := by
  rcases exec_eq_next h with hr | rfl
  · exact .inr hr
  · exact .inl ((finish_run _ _).trans ((stageOf i).effect_run s fun hst => hi (stageOf_eq_halt i hst)))

/-- Everything HLT can make of a running machine. -/
theorem exec_hlt_cases {s t : State} (hrun : s.run = .running) (h : exec .hlt s = .next t) :
    t.run = .running ∨
    (t = { s with run := .halted } ∧ s.params.haltBehavior = .spin ∧ s.f.getLsbD 7 = false) ∨
    (t = { s with run := .stopped } ∧ s.params.haltBehavior = .terminate) := by
  cases hb : s.params.haltBehavior with
  | terminate =>
    cases (exec_hlt_terminate hb).symm.trans h
    exact .inr (.inr ⟨rfl, rfl⟩)
  | spin =>
    cases ht : s.f.getLsbD 7 with
    | true =>
      cases (exec_hlt_trap hrun hb ht).symm.trans h
      exact .inl hrun
    | false =>
      cases (exec_hlt_wait hb ht).symm.trans h
      exact .inr (.inl ⟨rfl, rfl, rfl⟩)

theorem hltAtPc_of_decodeWord {s : State} {imm : Byte}
    (h : decodeWord s.params.opcodeMap (readCell s.mem s.pc.toNat) imm = .hlt) : HltAtPc s := by
  refine ⟨?_, fun hm => eq_of_decodeWord_hlt hm h⟩
  have hw : widthOfOpcode s.params.opcodeMap (readCell s.mem s.pc.toNat) = 1 := by
    rw [← widthOf_decodeWord _ _ imm, h]
    rfl
  rw [decodeWord_const hw 0#8 imm, h]

theorem fetch_eq_ok {s : State} {w : Byte × Byte} (h : fetch s = .ok w) :
    s.pc.toNat + 1 < memSize s.params ∧ w = (readCell s.mem s.pc.toNat, readCell s.mem (s.pc.toNat + 1)) := by
  rcases fetch_cases s with ⟨-, hf⟩ | ⟨-, -, hf⟩ | ⟨hpc, hf⟩ <;> cases hf.symm.trans h
  exact ⟨hpc, rfl⟩

/-- Settles O11: a fetch fault, HLT and a fault of an instruction change the run state alone; a poll of a halted machine
depends on T. -/
theorem runStateTransitions : Obligations.RunStateTransitions := by
  intro s t h
  rcases step_eq_next h with ⟨hrun, e, -, rfl⟩ | ⟨hrun, w, hw, he⟩ | ⟨hrun, rfl⟩
  · exact .inl ⟨hrun, .inr ⟨rfl, .inr (.inr ⟨_, rfl, faultRecord_pc _ _ _⟩)⟩⟩
  · refine .inl ⟨hrun, ?_⟩
    obtain ⟨-, rfl⟩ := fetch_eq_ok hw
    by_cases hi : decodeWord s.params.opcodeMap (readCell s.mem s.pc.toNat) (readCell s.mem (s.pc.toNat + 1)) = .hlt
    · rw [hi] at he
      have hat := hltAtPc_of_decodeWord hi
      rcases exec_hlt_cases hrun he with hr | ⟨rfl, hb, ht⟩ | ⟨rfl, hb⟩
      · exact .inl hr
      · exact .inr ⟨rfl, .inl ⟨rfl, hat, hb, ht⟩⟩
      · exact .inr ⟨rfl, .inr (.inl ⟨rfl, hat, hb⟩)⟩
    · rcases exec_run hi he with hr | ⟨r, rfl⟩
      · exact .inl (hr.trans hrun)
      · exact .inr ⟨rfl, .inr (.inr ⟨_, rfl, faultRecord_pc _ _ _⟩)⟩
  · refine .inr ⟨hrun, ?_⟩
    cases ht : s.f.getLsbD 7 with
    | true => exact .inl ⟨by rw [pollTrap_set ht], rfl⟩
    | false => exact .inr ⟨by rw [pollTrap_clear ht, hrun], rfl⟩

/-- An effect makes no machine Faulted. -/
theorem effect_not_faulted {st : Stage} {s : State} {r : FaultRecord} (h : (st.effect s).state.run = .faulted r) :
    s.run = .faulted r := by
  by_cases hst : st = .halt
  · subst hst
    rw [Stage.effect, fallThrough_state, Stage.haltState] at h
    split at h
    · cases h
    · split at h
      · exact h
      · cases h
  · exact (st.effect_run s hst).symm.trans h

/-- Settles O47: the accesses in order, then the divisor, and then an effect that makes nothing Faulted. -/
theorem everyInstructionCompletesOrFaults : Obligations.EveryInstructionCompletesOrFaults := by
  intro i s
  cases hout : (accesses i s).find? fun a => decide (memSize s.params ≤ a.toNat) with
  | some a => exact exec_of_outside hout
  | none =>
    by_cases hd : divisor i s = some 0#8
    · exact (if_pos hd).symm ▸ exec_of_divisor_zero hout hd
    · exact (if_neg hd).symm ▸
        ⟨_, exec_of_completes hout hd, fun r hr => effect_not_faulted ((finish_run _ _).symm.trans hr)⟩

/-- The faults of an instruction that runs in a machine that is not Faulted so. -/
theorem exec_faulted {i : Instr} {s t : State} {r : FaultRecord} (h : exec i s = .next t) (hr : t.run = .faulted r)
    (hs : s.run ≠ .faulted r) : t = { s with run := .faulted r } ∧
      ((∃ a : Byte, memSize s.params ≤ a.toNat ∧ r = ⟨.memoryFault, some (readCell s.mem s.pc.toNat), s.pc, a.toNat⟩) ∨
        (divisor i s = some 0#8 ∧ r = ⟨.arithmeticFault, some (readCell s.mem s.pc.toNat), s.pc, 0⟩)) := by
  rcases exec_outcomes i s with ⟨a, -, ha, hx⟩ | ⟨hd, hx⟩ | hx <;> cases hx.symm.trans h
  · cases hr
    exact ⟨rfl, .inl ⟨a, ha, rfl⟩⟩
  · cases hr
    exact ⟨rfl, .inr ⟨hd, rfl⟩⟩
  · exact absurd (effect_not_faulted ((finish_run _ _).symm.trans hr)) hs

/-- Every fatal fault of a step: of the fetch at PC or at PC + 1, or of the instruction at PC. -/
theorem step_faulted_cases {s t : State} {r : FaultRecord} (hrun : s.run = .running) (h : step s = .next t)
    (hr : t.run = .faulted r) : t = { s with run := .faulted r } ∧
      ((memSize s.params ≤ s.pc.toNat ∧ r = ⟨.memoryFault, none, s.pc, s.pc.toNat⟩) ∨
        (s.pc.toNat < memSize s.params ∧ memSize s.params ≤ s.pc.toNat + 1 ∧
          r = ⟨.memoryFault, some (readCell s.mem s.pc.toNat), s.pc, s.pc.toNat + 1⟩) ∨
        (s.pc.toNat + 1 < memSize s.params ∧
          ((∃ a : Byte, memSize s.params ≤ a.toNat ∧
              r = ⟨.memoryFault, some (readCell s.mem s.pc.toNat), s.pc, a.toNat⟩) ∨
            (divisor (decodeWord s.params.opcodeMap (readCell s.mem s.pc.toNat) (readCell s.mem (s.pc.toNat + 1))) s =
                some 0#8 ∧
              r = ⟨.arithmeticFault, some (readCell s.mem s.pc.toNat), s.pc, 0⟩)))) := by
  have hs : s.run ≠ .faulted r := by rw [hrun]; nofun
  rcases fetch_cases s with ⟨hge, hf⟩ | ⟨hlt, hge, hf⟩ | ⟨hlt, hf⟩
  · cases (step_of_fetch_error hrun hf).symm.trans h
    cases hr
    exact ⟨rfl, .inl ⟨hge, rfl⟩⟩
  · cases (step_of_fetch_error hrun hf).symm.trans h
    cases hr
    exact ⟨rfl, .inr (.inl ⟨hlt, hge, rfl⟩)⟩
  · obtain ⟨ht, hcause⟩ := exec_faulted ((step_of_fetch hrun hf).symm.trans h) hr hs
    exact ⟨ht, .inr (.inr ⟨hlt, hcause⟩)⟩

/-- Settles O48: by the cause of the fault, each with its record. -/
theorem faultCommitsNothing : Obligations.FaultCommitsNothing := by
  intro s t r hrun h hr
  obtain ⟨ht, hcause⟩ := step_faulted_cases hrun h hr
  refine ⟨ht, ?_⟩
  rcases hcause with ⟨hge, rfl⟩ | ⟨hlt, hge, rfl⟩ | ⟨hlt, ⟨a, ha, rfl⟩ | ⟨-, rfl⟩⟩
  · exact ⟨rfl, fun _ => hge, nofun, (if_neg (by omega)).symm⟩
  · exact ⟨rfl, fun _ => hge, nofun, (if_pos hlt).symm⟩
  · exact ⟨rfl, fun _ => ha, nofun, (if_pos (by omega)).symm⟩
  · exact ⟨rfl, nofun, fun _ => rfl, (if_pos (by omega)).symm⟩

/-- The opcode of a division under the default map (30_encoding.md R95). -/
theorem opcode_of_divisor {op imm b : Byte} {s : State} (h : divisor (decodeWord defaultOpcodeMap op imm) s = some b) :
    0x40 ≤ op.toNat ∧ op.toNat ≤ 0x47 := by
  have hdiv := divisor_isSome (decodeWord defaultOpcodeMap op imm) s
  rw [h] at hdiv
  cases hrow : tableRow op with
  | none =>
    rw [decodeWord_none (m := defaultOpcodeMap) hrow] at hdiv
    cases hdiv
  | some r =>
    rw [decodeWord_some (m := defaultOpcodeMap) hrow, opcodeIn_build hrow] at hdiv
    simpa using hdiv.symm

/-- Settles O49: with 256 cells every byte is an address within memory, so only the fetch at 0x100 can leave it. -/
theorem fullMemoryNeverFaultsOnData : Obligations.FullMemoryNeverFaultsOnData := by
  intro s htop
  have hsize : memSize s.params = 256 := by rw [memSize, htop]; rfl
  have hin : ∀ a : Byte, a.toNat < memSize s.params := fun a => hsize ▸ a.isLt
  refine ⟨fun i t r h hr hs => ?data, fun t r hrun h hr => ?step⟩
  case data =>
    rcases (exec_faulted h hr hs).2 with ⟨a, ha, -⟩ | ⟨-, rfl⟩
    · exact absurd (hin a) (by omega)
    · rfl
  case step =>
    rcases (step_faulted_cases hrun h hr).2 with ⟨hge, -⟩ | ⟨hlt, hge, rfl⟩ | ⟨hlt, ⟨a, ha, -⟩ | ⟨hd, rfl⟩⟩
    · exact absurd (hin s.pc) (by omega)
    · have hpc : s.pc.toNat = 0xff := by omega
      exact .inl ⟨BitVec.eq_of_toNat_eq hpc, rfl, congrArg (· + 1) hpc⟩
    · exact absurd (hin a) (by omega)
    · refine .inr ⟨fun hpc => ?_, rfl, hd, fun hm => opcode_of_divisor (hm ▸ hd)⟩
      have hnat : s.pc.toNat = 255 := by rw [hpc]; rfl
      omega

end Sys2Proof.Proofs
end

section
/-! PROOF. Tracing and pacing (60_exceptions.md section 5, 70_reset_and_hazards.md section 4) have no effect, T and the
parameters stay along every run, and a stored byte is fetched (20_memory.md section 5). -/

namespace Sys2Proof.Proofs

open Sys2Proof.Machine Sys2Proof.Claims

/-! ### Noninterference -/

section retime
variable (tracing : Bool) (hz : Nat)

theorem retime_haltBehavior (s : State) : (retime tracing hz s).params.haltBehavior = s.params.haltBehavior := rfl

theorem srcValue_retime (src : Src) (s : State) : srcValue src (retime tracing hz s) = srcValue src s := by
  cases src <;> rfl

theorem dstWrite_retime (d : Dst) (v : Byte) (s : State) :
    dstWrite d v (retime tracing hz s) = retime tracing hz (dstWrite d v s) := by cases d <;> rfl

theorem resultIn_retime (d : Dst) (t : Wide) (s : State) :
    resultIn d t (retime tracing hz s) = retime tracing hz (resultIn d t s) := by cases d <;> rfl

theorem haltState_retime (s : State) :
    Stage.haltState (retime tracing hz s) = retime tracing hz (Stage.haltState s) := by
  cases hb : s.params.haltBehavior with
  | terminate => simp only [Stage.haltState, retime_haltBehavior, hb]; rfl
  | spin =>
    simp only [Stage.haltState, retime_haltBehavior, hb]
    rw [apply_ite (retime tracing hz)]
    rfl

/-- The effect of a shape with the retimed state in place of the state. -/
def retimeEffect (e : Effect) : Effect := ⟨retime tracing hz e.state, e.pcAssigned⟩

theorem effect_retime (st : Stage) (s : State) :
    st.effect (retime tracing hz s) = retimeEffect tracing hz (st.effect s) := by
  cases st with
  | move d src => simp only [Stage.effect, srcValue_retime, dstWrite_retime]; rfl
  | binary op d src => simp only [Stage.effect, srcValue_retime, resultIn_retime]; rfl
  | divide d src => simp only [Stage.effect, srcValue_retime, resultIn_retime]; rfl
  | update op d => simp only [Stage.effect, srcValue_retime, resultIn_retime]; rfl
  | call w target => simp only [Stage.effect, srcValue_retime]; rfl
  | jump target => simp only [Stage.effect, srcValue_retime]; rfl
  | branch target => simp only [Stage.effect, Stage.branchEffect, srcValue_retime]; rfl
  | jumpIf fl p target =>
    simp only [Stage.effect, srcValue_retime]
    rw [apply_ite (retimeEffect tracing hz)]
    rfl
  | branchIf fl p target =>
    simp only [Stage.effect, Stage.branchEffect, srcValue_retime]
    rw [apply_ite (retimeEffect tracing hz)]
    rfl
  | push src => simp only [Stage.effect, srcValue_retime]; rfl
  | pop d => exact congrArg fallThrough (dstWrite_retime tracing hz d (popped s) { s with sp := s.sp - 1#8 })
  | output src => simp only [Stage.effect, srcValue_retime]; rfl
  | input d => exact congrArg fallThrough (dstWrite_retime tracing hz d _ _)
  | halt => exact congrArg fallThrough (haltState_retime tracing hz s)
  | ret | noop => rfl

theorem accesses_retime (i : Instr) (s : State) : accesses i (retime tracing hz s) = accesses i s := by cases i <;> rfl

theorem divisor_retime (i : Instr) (s : State) : divisor i (retime tracing hz s) = divisor i s := by cases i <;> rfl

theorem finish_retime (i : Instr) (e : Effect) :
    finish i (retimeEffect tracing hz e) = retime tracing hz (finish i e) := by
  rw [finish, finish, apply_ite (retime tracing hz)]
  rfl

theorem exec_retime {i : Instr} {s t : State} (h : exec i s = .next t) :
    exec i (retime tracing hz s) = .next (retime tracing hz t) := by
  have hsame : firstOutside (retime tracing hz s) (accesses i (retime tracing hz s)) = firstOutside s (accesses i s) := by
    rw [accesses_retime]
    rfl
  cases hout : firstOutside s (accesses i s) with
  | some a =>
    cases (exec_of_outside hout).symm.trans h
    exact exec_of_outside (hsame.trans hout)
  | none =>
    by_cases hd : divisor i s = some 0#8
    · cases (exec_of_divisor_zero hout hd).symm.trans h
      exact exec_of_divisor_zero (hsame.trans hout) ((divisor_retime tracing hz i s).trans hd)
    · cases (exec_of_completes hout hd).symm.trans h
      rw [exec_of_completes (hsame.trans hout) (divisor_retime tracing hz i s ▸ hd), effect_retime, finish_retime]

theorem pollTrap_retime (s : State) : pollTrap (retime tracing hz s) = retime tracing hz (pollTrap s) := by
  rw [pollTrap, pollTrap, apply_ite (retime tracing hz)]
  rfl

theorem step_retime {s t : State} (h : step s = .next t) :
    step (retime tracing hz s) = .next (retime tracing hz t) := by
  rcases step_eq_next h with ⟨hrun, e, hf, rfl⟩ | ⟨hrun, w, hw, he⟩ | ⟨hrun, rfl⟩
  · exact step_of_fetch_error (s := retime tracing hz s) hrun hf
  · exact (step_of_fetch (s := retime tracing hz s) hrun hw).trans (exec_retime tracing hz he)
  · exact (step_halted (s := retime tracing hz s) hrun).trans (congrArg _ (pollTrap_retime tracing hz s))

end retime

/-- The run states in which a step is a fault: the run is over. -/
theorem step_eq_fault {s : State} {e : Fault} (h : step s = .fault e) :
    (s.run = .stopped ∧ e = .runStopped) ∨ ∃ r, s.run = .faulted r ∧ e = .runFaulted r := by
  cases hrun : s.run with
  | running =>
    obtain ⟨t, ht⟩ := step_answers (.inl hrun)
    cases ht.symm.trans h
  | halted =>
    obtain ⟨t, ht⟩ := step_answers (.inr hrun)
    cases ht.symm.trans h
  | stopped =>
    cases (step_stopped hrun).symm.trans h
    exact .inl ⟨rfl, rfl⟩
  | faulted r =>
    cases (step_faulted hrun).symm.trans h
    exact .inr ⟨r, rfl, rfl⟩

theorem step_not_refused (s : State) (e : Refusal) : step s ≠ .refused e := by
  intro h
  cases hrun : s.run with
  | running =>
    obtain ⟨t, ht⟩ := step_answers (.inl hrun)
    cases ht.symm.trans h
  | halted => cases (step_halted hrun).symm.trans h
  | stopped => cases (step_stopped hrun).symm.trans h
  | faulted r => cases (step_faulted hrun).symm.trans h

/-- Settles O53: no address, divisor, effect or run state reads the two parameters. -/
theorem tracingAndPacingHaveNoEffect : Obligations.TracingAndPacingHaveNoEffect := by
  refine fun s tracing hz => ⟨fun t h => step_retime tracing hz h, fun e h => ?_, step_not_refused s⟩
  rcases step_eq_fault h with ⟨hrun, rfl⟩ | ⟨r, hrun, rfl⟩
  · exact step_stopped (s := retime tracing hz s) hrun
  · exact step_faulted (s := retime tracing hz s) hrun

/-! ### Along a run -/

/-- What no move of a run loses: T once set, bits 3 to 6 of F, and the parameters. -/
structure Keeps (s t : State) : Prop where
  trap : s.f.getLsbD 7 = true → t.f.getLsbD 7 = true
  unused : ∀ k, 3 ≤ k → k ≤ 6 → t.f.getLsbD k = s.f.getLsbD k
  params : t.params = s.params

theorem Keeps.of_eq {s t : State} (hf : ∀ k, 3 ≤ k → t.f.getLsbD k = s.f.getLsbD k) (hp : t.params = s.params) :
    Keeps s t :=
  ⟨fun h => (hf 7 (by decide)).trans h, fun k hk _ => hf k hk, hp⟩

theorem Keeps.trans {s t u : State} (h : Keeps s t) (h' : Keeps t u) : Keeps s u :=
  ⟨h'.trap ∘ h.trap, fun k hlo hhi => (h'.unused k hlo hhi).trans (h.unused k hlo hhi), h'.params.trans h.params⟩

theorem keeps_step {s t : State} (h : step s = .next t) : Keeps s t := by
  rcases step_eq_next h with ⟨-, e, -, rfl⟩ | ⟨-, w, -, he⟩ | ⟨-, rfl⟩
  · exact .of_eq (fun _ _ => rfl) rfl
  · exact .of_eq (fun k hk => exec_flags_ge he hk) (exec_registers he).params
  · unfold pollTrap
    split <;> exact .of_eq (fun _ _ => rfl) rfl

theorem keeps_hostAct (a : HostAction) (s : State) : Keeps s (hostAct a s) := by
  cases a with
  | setTrap =>
    refine ⟨fun _ => withTrap_getLsbD s.f (by decide), fun k hlo hhi => ?_, rfl⟩
    have hk : k ≠ 7 := by omega
    simpa [hk] using withTrap_getLsbD s.f (show k < 8 by omega)
  | writeIO v => exact .of_eq (fun _ _ => rfl) rfl
  | observe => exact .of_eq (fun _ _ => rfl) rfl
  | cutOff => exact .of_eq (fun _ _ => rfl) rfl

theorem keeps_reaches {s t : State} (h : Reaches s t) : Keeps s t := by
  induction h with
  | refl => exact .of_eq (fun _ _ => rfl) rfl
  | tail _ move ih =>
    cases move with
    | step hstep => exact ih.trans (keeps_step hstep)
    | host a => exact ih.trans (keeps_hostAct a _)

/-- Settles O54: by induction on the run, each move keeps them. -/
theorem trapStaysSet : Obligations.TrapStaysSet := by
  intro s t h
  obtain ⟨htrap, hunused, hp⟩ := keeps_reaches h
  exact ⟨htrap, hunused, hp⟩

/-! ### Self-modifying code -/

/-- Settles O60: the store is O21's, and the next fetch reads the cell it wrote. -/
theorem storedByteIsFetched : Obligations.StoredByteIsFetched := by
  intro s imm hrun hpc himm hdecode
  obtain ⟨hstore, -⟩ := (storeForms s imm hrun).1 himm
  obtain ⟨t, hexec, ht, hread, -⟩ := hstore
  refine ⟨t, by rw [step_of_lt hrun hpc, hdecode, hexec], ht, hread, fun htpc hnext => ?_⟩
  have hrun' : t.run = .running := by rw [ht]; exact hrun
  have hparams : t.params = s.params := by rw [ht]
  have hop : readCell t.mem t.pc.toNat = s.x := by rw [htpc, hread]
  rw [step_of_lt hrun' hnext, hop, hparams]

end Sys2Proof.Proofs
end
